-- ==== Sys2Proof/Word.lean ====
section
/-! DEFINITION. The two word types of the machine: the data width is 8 bits and the address width is 16 bits (R8, R9). -/

namespace Sys2Proof

/-- A byte: 8 bits, bit 0 the least significant (R9). -/
abbrev Byte := BitVec 8

/-- A 16-bit value: an address, the program counter, a vector (R9, R50). -/
abbrev Word := BitVec 16

end Sys2Proof
end

