-- ==== Sys2Proof/Syntax.lean ====
section
/-! DEFINITION. The instruction set as syntax: the 13 addressing modes (R81), the instruction kinds of the opcode table (R84,
R86), operand forms, and Instr, one constructor per mnemonic of the table. A row of the table is a constructor with an operand
form; WellFormed says which forms a constructor has. -/

namespace Sys2Proof

/-- The 13 addressing modes, by the abbreviations of R81. -/
inductive Mode
  | imp | acc | imm | zp | zpx | zpy | abs | abx | aby | ind | izx | izy | rel
deriving DecidableEq, Repr

/-- The number of bytes of an instruction in a mode (R81): formats F1, F2, F3 of R80. -/
def Mode.length : Mode → Nat
  | .imp | .acc => 1
  | .imm | .zp | .zpx | .zpy | .izx | .izy | .rel => 2
  | .abs | .abx | .aby | .ind => 3

/-- The instruction kinds of the opcode table: the 56 mnemonics of R86 and `ILL` (R84). -/
inductive Kind
  | lda | ldx | ldy | sta | stx | sty
  | tax | tay | txa | tya | tsx | txs
  | pha | php | pla | plp
  | ora | and | eor | adc | sbc | cmp | cpx | cpy | bit
  | asl | lsr | rol | ror | inc | dec
  | inx | iny | dex | dey
  | jmp | jsr | rts
  | bpl | bmi | bvc | bvs | bcc | bcs | bne | beq
  | clc | sec | cli | sei | clv | cld | sed | nop | brk | rti
  | ill
deriving DecidableEq, Repr

/-- An operand as assembled from the instruction's bytes (R81): 8 bits for the two-byte modes, 16 for the three-byte modes,
none for Accumulator. Implied and Relative operands stand in the constructors of Instr themselves. -/
inductive Operand
  | acc
  | imm (value : Byte)
  | zp (address : Byte)
  | zpx (address : Byte)
  | zpy (address : Byte)
  | abs (address : Word)
  | abx (base : Word)
  | aby (base : Word)
  | ind (pointer : Word)
  | izx (pointer : Byte)
  | izy (pointer : Byte)
deriving DecidableEq, Repr

/-- The addressing mode of an operand form (R81). -/
def Operand.mode : Operand → Mode
  | .acc => .acc
  | .imm _ => .imm
  | .zp _ => .zp
  | .zpx _ => .zpx
  | .zpy _ => .zpy
  | .abs _ => .abs
  | .abx _ => .abx
  | .aby _ => .aby
  | .ind _ => .ind
  | .izx _ => .izx
  | .izy _ => .izy

/-- The instructions. A branch carries its offset byte, JSR its target, `ill` the undefined opcode byte it stands for (R88). -/
inductive Instr
  | lda (o : Operand)
  | ldx (o : Operand)
  | ldy (o : Operand)
  | sta (o : Operand)
  | stx (o : Operand)
  | sty (o : Operand)
  | tax
  | tay
  | txa
  | tya
  | tsx
  | txs
  | pha
  | php
  | pla
  | plp
  | ora (o : Operand)
  | and (o : Operand)
  | eor (o : Operand)
  | adc (o : Operand)
  | sbc (o : Operand)
  | cmp (o : Operand)
  | cpx (o : Operand)
  | cpy (o : Operand)
  | bit (o : Operand)
  | asl (o : Operand)
  | lsr (o : Operand)
  | rol (o : Operand)
  | ror (o : Operand)
  | inc (o : Operand)
  | dec (o : Operand)
  | inx
  | iny
  | dex
  | dey
  | jmp (o : Operand)
  | jsr (target : Word)
  | rts
  | bpl (offset : Byte)
  | bmi (offset : Byte)
  | bvc (offset : Byte)
  | bvs (offset : Byte)
  | bcc (offset : Byte)
  | bcs (offset : Byte)
  | bne (offset : Byte)
  | beq (offset : Byte)
  | clc
  | sec
  | cli
  | sei
  | clv
  | cld
  | sed
  | nop
  | brk
  | rti
  | ill (opcode : Byte)
deriving DecidableEq, Repr

/-- The instruction kind of an instruction (R84). -/
def Instr.kind : Instr → Kind
  | .lda _ => .lda | .ldx _ => .ldx | .ldy _ => .ldy
  | .sta _ => .sta | .stx _ => .stx | .sty _ => .sty
  | .tax => .tax | .tay => .tay | .txa => .txa | .tya => .tya | .tsx => .tsx | .txs => .txs
  | .pha => .pha | .php => .php | .pla => .pla | .plp => .plp
  | .ora _ => .ora | .and _ => .and | .eor _ => .eor | .adc _ => .adc | .sbc _ => .sbc
  | .cmp _ => .cmp | .cpx _ => .cpx | .cpy _ => .cpy | .bit _ => .bit
  | .asl _ => .asl | .lsr _ => .lsr | .rol _ => .rol | .ror _ => .ror | .inc _ => .inc | .dec _ => .dec
  | .inx => .inx | .iny => .iny | .dex => .dex | .dey => .dey
  | .jmp _ => .jmp | .jsr _ => .jsr | .rts => .rts
  | .bpl _ => .bpl | .bmi _ => .bmi | .bvc _ => .bvc | .bvs _ => .bvs
  | .bcc _ => .bcc | .bcs _ => .bcs | .bne _ => .bne | .beq _ => .beq
  | .clc => .clc | .sec => .sec | .cli => .cli | .sei => .sei | .clv => .clv | .cld => .cld | .sed => .sed
  | .nop => .nop | .brk => .brk | .rti => .rti
  | .ill _ => .ill

/-- The addressing mode of an instruction (R81, R86). -/
def Instr.mode : Instr → Mode
  | .lda o | .ldx o | .ldy o | .sta o | .stx o | .sty o => o.mode
  | .ora o | .and o | .eor o | .adc o | .sbc o | .cmp o | .cpx o | .cpy o | .bit o => o.mode
  | .asl o | .lsr o | .rol o | .ror o | .inc o | .dec o => o.mode
  | .jmp o => o.mode
  | .jsr _ => .abs
  | .bpl _ | .bmi _ | .bvc _ | .bvs _ | .bcc _ | .bcs _ | .bne _ | .beq _ => .rel
  | .tax | .tay | .txa | .tya | .tsx | .txs | .pha | .php | .pla | .plp => .imp
  | .inx | .iny | .dex | .dey | .rts => .imp
  | .clc | .sec | .cli | .sei | .clv | .cld | .sed | .nop | .brk | .rti => .imp
  | .ill _ => .imp

end Sys2Proof
end

