-- ==== Sys2Proof/WellFormed.lean ====
section
/-! DEFINITION. Which instructions exist: the operand forms of each instruction kind (R86) and the undefined opcode bytes (R88).
Every operand value is legal in every form (R89). -/

namespace Sys2Proof

/-- The addressing modes each instruction kind has: the filled cells of the table of R86; `ILL` is entered as Implied (R85). -/
def Kind.modes : Kind → List Mode
  | .lda | .ora | .and | .eor | .adc | .sbc | .cmp =>
      [.imm, .zp, .zpx, .abs, .abx, .aby, .izx, .izy]
  | .ldx =>
      [.imm, .zp, .zpy, .abs, .aby]
  | .ldy =>
      [.imm, .zp, .zpx, .abs, .abx]
  | .sta =>
      [.zp, .zpx, .abs, .abx, .aby, .izx, .izy]
  | .stx =>
      [.zp, .zpy, .abs]
  | .sty =>
      [.zp, .zpx, .abs]
  | .tax | .tay | .txa | .tya | .tsx | .txs | .pha | .php | .pla | .plp | .inx | .iny
  | .dex | .dey | .rts | .clc | .sec | .cli | .sei | .clv | .cld | .sed | .nop | .brk
  | .rti | .ill =>
      [.imp]
  | .cpx | .cpy =>
      [.imm, .zp, .abs]
  | .bit =>
      [.zp, .abs]
  | .asl | .lsr | .rol | .ror =>
      [.acc, .zp, .zpx, .abs, .abx]
  | .inc | .dec =>
      [.zp, .zpx, .abs, .abx]
  | .jmp =>
      [.abs, .ind]
  | .jsr =>
      [.abs]
  | .bpl | .bmi | .bvc | .bvs | .bcc | .bcs | .bne | .beq =>
      [.rel]

/-- The 105 opcode bytes with no documented instruction (R88). -/
def undefinedOpcodes : List Byte :=
  [0x02, 0x03, 0x04, 0x07, 0x0B, 0x0C, 0x0F, 0x12, 0x13, 0x14, 0x17, 0x1A, 0x1B, 0x1C, 0x1F] ++
  [0x22, 0x23, 0x27, 0x2B, 0x2F, 0x32, 0x33, 0x34, 0x37, 0x3A, 0x3B, 0x3C, 0x3F, 0x42, 0x43] ++
  [0x44, 0x47, 0x4B, 0x4F, 0x52, 0x53, 0x54, 0x57, 0x5A, 0x5B, 0x5C, 0x5F, 0x62, 0x63, 0x64] ++
  [0x67, 0x6B, 0x6F, 0x72, 0x73, 0x74, 0x77, 0x7A, 0x7B, 0x7C, 0x7F, 0x80, 0x82, 0x83, 0x87] ++
  [0x89, 0x8B, 0x8F, 0x92, 0x93, 0x97, 0x9B, 0x9C, 0x9E, 0x9F, 0xA3, 0xA7, 0xAB, 0xAF, 0xB2] ++
  [0xB3, 0xB7, 0xBB, 0xBF, 0xC2, 0xC3, 0xC7, 0xCB, 0xCF, 0xD2, 0xD3, 0xD4, 0xD7, 0xDA, 0xDB] ++
  [0xDC, 0xDF, 0xE2, 0xE3, 0xE7, 0xEB, 0xEF, 0xF2, 0xF3, 0xF4, 0xF7, 0xFA, 0xFB, 0xFC, 0xFF]

/-- The check of well-formedness: an `ill` stands for an undefined opcode byte, and every other instruction has an operand form
that R86 gives it. -/
def Instr.wellFormed : Instr → Bool
  | .ill op => undefinedOpcodes.contains op
  | i => i.kind.modes.contains i.mode

/-- An instruction of the set (R86, R88). -/
abbrev Instr.WellFormed (i : Instr) : Prop := i.wellFormed = true

end Sys2Proof
end

