-- ==== Sys2Proof/Decode.lean ====
section
/-! DEFINITION. The decoder, from the 256-entry opcode table (R84 to R86), and the encoder, from the table of opcodes by
mnemonic and mode (the first table of R86). The two tables of the spec are written out separately, so that their agreement is
a theorem. Byte-order helpers stand here too (R60, R80). -/

namespace Sys2Proof

/-- `hi:lo`, the 16-bit concatenation of two bytes (R9). -/
def wordOf (hi lo : Byte) : Word := hi ++ lo

/-- `lo(w) = w[7:0]` (R9). -/
def lowByte (w : Word) : Byte := w.extractLsb' 0 8

/-- `hi(w) = w[15:8]` (R9). -/
def highByte (w : Word) : Byte := w.extractLsb' 8 8

/-- An entry of the opcode table, `OPTAB[op] = (kind, mode, base, pcx)` (R84). -/
structure Entry where
  kind : Kind
  mode : Mode
  /-- The cycle count with no addition. -/
  base : Nat
  /-- One more cycle when the index addition crosses a page (R87). -/
  pcx : Bool
deriving DecidableEq, Repr

/-- The entry of an undefined opcode byte, `(ILL, IMP, 1, 0)` (R85). -/
def Entry.undefined : Entry := ⟨.ill, .imp, 1, false⟩

/-- An entry that takes no extra cycle on a page crossing (R87). -/
def Entry.fixed (k : Kind) (m : Mode) (base : Nat) : Entry := ⟨k, m, base, false⟩

/-- An entry marked `+` in R86: one more cycle when the index addition crosses a page (R87). -/
def Entry.plus (k : Kind) (m : Mode) (base : Nat) : Entry := ⟨k, m, base, true⟩

namespace OpcodeTable

open Entry

/-- Opcode bytes 0x00 to 0x0F (R86). -/
def row0 : List Entry := [
  fixed .brk .imp 7, fixed .ora .izx 6, undefined, undefined,
  undefined, fixed .ora .zp 3, fixed .asl .zp 5, undefined,
  fixed .php .imp 3, fixed .ora .imm 2, fixed .asl .acc 2, undefined,
  undefined, fixed .ora .abs 4, fixed .asl .abs 6, undefined]

/-- Opcode bytes 0x10 to 0x1F (R86). -/
def row1 : List Entry := [
  fixed .bpl .rel 2, plus .ora .izy 5, undefined, undefined,
  undefined, fixed .ora .zpx 4, fixed .asl .zpx 6, undefined,
  fixed .clc .imp 2, plus .ora .aby 4, undefined, undefined,
  undefined, plus .ora .abx 4, fixed .asl .abx 7, undefined]

/-- Opcode bytes 0x20 to 0x2F (R86). -/
def row2 : List Entry := [
  fixed .jsr .abs 6, fixed .and .izx 6, undefined, undefined,
  fixed .bit .zp 3, fixed .and .zp 3, fixed .rol .zp 5, undefined,
  fixed .plp .imp 4, fixed .and .imm 2, fixed .rol .acc 2, undefined,
  fixed .bit .abs 4, fixed .and .abs 4, fixed .rol .abs 6, undefined]

/-- Opcode bytes 0x30 to 0x3F (R86). -/
def row3 : List Entry := [
  fixed .bmi .rel 2, plus .and .izy 5, undefined, undefined,
  undefined, fixed .and .zpx 4, fixed .rol .zpx 6, undefined,
  fixed .sec .imp 2, plus .and .aby 4, undefined, undefined,
  undefined, plus .and .abx 4, fixed .rol .abx 7, undefined]

/-- Opcode bytes 0x40 to 0x4F (R86). -/
def row4 : List Entry := [
  fixed .rti .imp 6, fixed .eor .izx 6, undefined, undefined,
  undefined, fixed .eor .zp 3, fixed .lsr .zp 5, undefined,
  fixed .pha .imp 3, fixed .eor .imm 2, fixed .lsr .acc 2, undefined,
  fixed .jmp .abs 3, fixed .eor .abs 4, fixed .lsr .abs 6, undefined]

/-- Opcode bytes 0x50 to 0x5F (R86). -/
def row5 : List Entry := [
  fixed .bvc .rel 2, plus .eor .izy 5, undefined, undefined,
  undefined, fixed .eor .zpx 4, fixed .lsr .zpx 6, undefined,
  fixed .cli .imp 2, plus .eor .aby 4, undefined, undefined,
  undefined, plus .eor .abx 4, fixed .lsr .abx 7, undefined]

/-- Opcode bytes 0x60 to 0x6F (R86). -/
def row6 : List Entry := [
  fixed .rts .imp 6, fixed .adc .izx 6, undefined, undefined,
  undefined, fixed .adc .zp 3, fixed .ror .zp 5, undefined,
  fixed .pla .imp 4, fixed .adc .imm 2, fixed .ror .acc 2, undefined,
  fixed .jmp .ind 5, fixed .adc .abs 4, fixed .ror .abs 6, undefined]

/-- Opcode bytes 0x70 to 0x7F (R86). -/
def row7 : List Entry := [
  fixed .bvs .rel 2, plus .adc .izy 5, undefined, undefined,
  undefined, fixed .adc .zpx 4, fixed .ror .zpx 6, undefined,
  fixed .sei .imp 2, plus .adc .aby 4, undefined, undefined,
  undefined, plus .adc .abx 4, fixed .ror .abx 7, undefined]

/-- Opcode bytes 0x80 to 0x8F (R86). -/
def row8 : List Entry := [
  undefined, fixed .sta .izx 6, undefined, undefined,
  fixed .sty .zp 3, fixed .sta .zp 3, fixed .stx .zp 3, undefined,
  fixed .dey .imp 2, undefined, fixed .txa .imp 2, undefined,
  fixed .sty .abs 4, fixed .sta .abs 4, fixed .stx .abs 4, undefined]

/-- Opcode bytes 0x90 to 0x9F (R86). -/
def row9 : List Entry := [
  fixed .bcc .rel 2, fixed .sta .izy 6, undefined, undefined,
  fixed .sty .zpx 4, fixed .sta .zpx 4, fixed .stx .zpy 4, undefined,
  fixed .tya .imp 2, fixed .sta .aby 5, fixed .txs .imp 2, undefined,
  undefined, fixed .sta .abx 5, undefined, undefined]

/-- Opcode bytes 0xA0 to 0xAF (R86). -/
def rowA : List Entry := [
  fixed .ldy .imm 2, fixed .lda .izx 6, fixed .ldx .imm 2, undefined,
  fixed .ldy .zp 3, fixed .lda .zp 3, fixed .ldx .zp 3, undefined,
  fixed .tay .imp 2, fixed .lda .imm 2, fixed .tax .imp 2, undefined,
  fixed .ldy .abs 4, fixed .lda .abs 4, fixed .ldx .abs 4, undefined]

/-- Opcode bytes 0xB0 to 0xBF (R86). -/
def rowB : List Entry := [
  fixed .bcs .rel 2, plus .lda .izy 5, undefined, undefined,
  fixed .ldy .zpx 4, fixed .lda .zpx 4, fixed .ldx .zpy 4, undefined,
  fixed .clv .imp 2, plus .lda .aby 4, fixed .tsx .imp 2, undefined,
  plus .ldy .abx 4, plus .lda .abx 4, plus .ldx .aby 4, undefined]

/-- Opcode bytes 0xC0 to 0xCF (R86). -/
def rowC : List Entry := [
  fixed .cpy .imm 2, fixed .cmp .izx 6, undefined, undefined,
  fixed .cpy .zp 3, fixed .cmp .zp 3, fixed .dec .zp 5, undefined,
  fixed .iny .imp 2, fixed .cmp .imm 2, fixed .dex .imp 2, undefined,
  fixed .cpy .abs 4, fixed .cmp .abs 4, fixed .dec .abs 6, undefined]

/-- Opcode bytes 0xD0 to 0xDF (R86). -/
def rowD : List Entry := [
  fixed .bne .rel 2, plus .cmp .izy 5, undefined, undefined,
  undefined, fixed .cmp .zpx 4, fixed .dec .zpx 6, undefined,
  fixed .cld .imp 2, plus .cmp .aby 4, undefined, undefined,
  undefined, plus .cmp .abx 4, fixed .dec .abx 7, undefined]

/-- Opcode bytes 0xE0 to 0xEF (R86). -/
def rowE : List Entry := [
  fixed .cpx .imm 2, fixed .sbc .izx 6, undefined, undefined,
  fixed .cpx .zp 3, fixed .sbc .zp 3, fixed .inc .zp 5, undefined,
  fixed .inx .imp 2, fixed .sbc .imm 2, fixed .nop .imp 2, undefined,
  fixed .cpx .abs 4, fixed .sbc .abs 4, fixed .inc .abs 6, undefined]

/-- Opcode bytes 0xF0 to 0xFF (R86). -/
def rowF : List Entry := [
  fixed .beq .rel 2, plus .sbc .izy 5, undefined, undefined,
  undefined, fixed .sbc .zpx 4, fixed .inc .zpx 6, undefined,
  fixed .sed .imp 2, plus .sbc .aby 4, undefined, undefined,
  undefined, plus .sbc .abx 4, fixed .inc .abx 7, undefined]

/-- The matrix of R86, one row for each high nibble. -/
def rows : List (List Entry) :=
  [row0, row1, row2, row3, row4, row5, row6, row7] ++
  [row8, row9, rowA, rowB, rowC, rowD, rowE, rowF]

end OpcodeTable

/-- `OPTAB[op]`: the entry at the row of the high nibble and the column of the low nibble (R84, R86). Total: 256 entries. -/
def optab (op : Byte) : Entry :=
  (OpcodeTable.rows.getD (op.toNat / 16) []).getD (op.toNat % 16) Entry.undefined

/-- The operand a mode assembles from the operand bytes (R81); a mode without an operand form of its own (Implied, Relative)
never reaches this for an instruction that takes an operand. -/
def operandOf (m : Mode) (b1 b2 : Byte) : Operand :=
  match m with
  | .imp | .acc | .rel => .acc
  | .imm => .imm b1
  | .zp => .zp b1
  | .zpx => .zpx b1
  | .zpy => .zpy b1
  | .abs => .abs (wordOf b2 b1)
  | .abx => .abx (wordOf b2 b1)
  | .aby => .aby (wordOf b2 b1)
  | .ind => .ind (wordOf b2 b1)
  | .izx => .izx b1
  | .izy => .izy b1

/-- The instruction of a kind and mode with the bytes it was read from (R81, R85). -/
def assemble (k : Kind) (m : Mode) (b0 b1 b2 : Byte) : Instr :=
  match k with
  | .lda => .lda (operandOf m b1 b2)
  | .ldx => .ldx (operandOf m b1 b2)
  | .ldy => .ldy (operandOf m b1 b2)
  | .sta => .sta (operandOf m b1 b2)
  | .stx => .stx (operandOf m b1 b2)
  | .sty => .sty (operandOf m b1 b2)
  | .tax => .tax
  | .tay => .tay
  | .txa => .txa
  | .tya => .tya
  | .tsx => .tsx
  | .txs => .txs
  | .pha => .pha
  | .php => .php
  | .pla => .pla
  | .plp => .plp
  | .ora => .ora (operandOf m b1 b2)
  | .and => .and (operandOf m b1 b2)
  | .eor => .eor (operandOf m b1 b2)
  | .adc => .adc (operandOf m b1 b2)
  | .sbc => .sbc (operandOf m b1 b2)
  | .cmp => .cmp (operandOf m b1 b2)
  | .cpx => .cpx (operandOf m b1 b2)
  | .cpy => .cpy (operandOf m b1 b2)
  | .bit => .bit (operandOf m b1 b2)
  | .asl => .asl (operandOf m b1 b2)
  | .lsr => .lsr (operandOf m b1 b2)
  | .rol => .rol (operandOf m b1 b2)
  | .ror => .ror (operandOf m b1 b2)
  | .inc => .inc (operandOf m b1 b2)
  | .dec => .dec (operandOf m b1 b2)
  | .inx => .inx
  | .iny => .iny
  | .dex => .dex
  | .dey => .dey
  | .jmp => .jmp (operandOf m b1 b2)
  | .jsr => .jsr (wordOf b2 b1)
  | .rts => .rts
  | .bpl => .bpl b1
  | .bmi => .bmi b1
  | .bvc => .bvc b1
  | .bvs => .bvs b1
  | .bcc => .bcc b1
  | .bcs => .bcs b1
  | .bne => .bne b1
  | .beq => .beq b1
  | .clc => .clc
  | .sec => .sec
  | .cli => .cli
  | .sei => .sei
  | .clv => .clv
  | .cld => .cld
  | .sed => .sed
  | .nop => .nop
  | .brk => .brk
  | .rti => .rti
  | .ill => .ill b0

/-- The instruction at a place whose bytes are `b0`, `b1`, `b2`; operand bytes beyond the instruction's length are not looked
at. Decoding is total (R85). -/
def decodeBytes (b0 b1 b2 : Byte) : Instr :=
  assemble (optab b0).kind (optab b0).mode b0 b1 b2

/-- Why a list of bytes holds no instruction: it ends too early. Every complete instruction decodes (R85, R89). -/
inductive DecodeError
  /-- There is no opcode byte. -/
  | noBytes
  /-- The mode of the opcode needs operand bytes that are not there. -/
  | missingOperandBytes
deriving DecidableEq, Repr

/-- Reads one instruction from the front of a list of bytes and gives the rest (R80 to R82). -/
def decode : List Byte → Except DecodeError (Instr × List Byte)
  | [] => .error .noBytes
  | b0 :: rest =>
    match (optab b0).mode.length, rest with
    | 1, _ => .ok (decodeBytes b0 0 0, rest)
    | 2, b1 :: rest => .ok (decodeBytes b0 b1 0, rest)
    | 3, b1 :: b2 :: rest => .ok (decodeBytes b0 b1 b2, rest)
    | _, _ => .error .missingOperandBytes

/-- The opcode byte of each (kind, mode): the first table of R86. `ILL` has none, its byte is its own. -/
def Kind.opcodes : Kind → List (Mode × Byte)
  | .lda => [(.imm, 0xA9), (.zp, 0xA5), (.zpx, 0xB5), (.abs, 0xAD), (.abx, 0xBD), (.aby, 0xB9), (.izx, 0xA1), (.izy, 0xB1)]
  | .ldx => [(.imm, 0xA2), (.zp, 0xA6), (.zpy, 0xB6), (.abs, 0xAE), (.aby, 0xBE)]
  | .ldy => [(.imm, 0xA0), (.zp, 0xA4), (.zpx, 0xB4), (.abs, 0xAC), (.abx, 0xBC)]
  | .sta => [(.zp, 0x85), (.zpx, 0x95), (.abs, 0x8D), (.abx, 0x9D), (.aby, 0x99), (.izx, 0x81), (.izy, 0x91)]
  | .stx => [(.zp, 0x86), (.zpy, 0x96), (.abs, 0x8E)]
  | .sty => [(.zp, 0x84), (.zpx, 0x94), (.abs, 0x8C)]
  | .tax => [(.imp, 0xAA)]
  | .tay => [(.imp, 0xA8)]
  | .txa => [(.imp, 0x8A)]
  | .tya => [(.imp, 0x98)]
  | .tsx => [(.imp, 0xBA)]
  | .txs => [(.imp, 0x9A)]
  | .pha => [(.imp, 0x48)]
  | .php => [(.imp, 0x08)]
  | .pla => [(.imp, 0x68)]
  | .plp => [(.imp, 0x28)]
  | .ora => [(.imm, 0x09), (.zp, 0x05), (.zpx, 0x15), (.abs, 0x0D), (.abx, 0x1D), (.aby, 0x19), (.izx, 0x01), (.izy, 0x11)]
  | .and => [(.imm, 0x29), (.zp, 0x25), (.zpx, 0x35), (.abs, 0x2D), (.abx, 0x3D), (.aby, 0x39), (.izx, 0x21), (.izy, 0x31)]
  | .eor => [(.imm, 0x49), (.zp, 0x45), (.zpx, 0x55), (.abs, 0x4D), (.abx, 0x5D), (.aby, 0x59), (.izx, 0x41), (.izy, 0x51)]
  | .adc => [(.imm, 0x69), (.zp, 0x65), (.zpx, 0x75), (.abs, 0x6D), (.abx, 0x7D), (.aby, 0x79), (.izx, 0x61), (.izy, 0x71)]
  | .sbc => [(.imm, 0xE9), (.zp, 0xE5), (.zpx, 0xF5), (.abs, 0xED), (.abx, 0xFD), (.aby, 0xF9), (.izx, 0xE1), (.izy, 0xF1)]
  | .cmp => [(.imm, 0xC9), (.zp, 0xC5), (.zpx, 0xD5), (.abs, 0xCD), (.abx, 0xDD), (.aby, 0xD9), (.izx, 0xC1), (.izy, 0xD1)]
  | .cpx => [(.imm, 0xE0), (.zp, 0xE4), (.abs, 0xEC)]
  | .cpy => [(.imm, 0xC0), (.zp, 0xC4), (.abs, 0xCC)]
  | .bit => [(.zp, 0x24), (.abs, 0x2C)]
  | .asl => [(.acc, 0x0A), (.zp, 0x06), (.zpx, 0x16), (.abs, 0x0E), (.abx, 0x1E)]
  | .lsr => [(.acc, 0x4A), (.zp, 0x46), (.zpx, 0x56), (.abs, 0x4E), (.abx, 0x5E)]
  | .rol => [(.acc, 0x2A), (.zp, 0x26), (.zpx, 0x36), (.abs, 0x2E), (.abx, 0x3E)]
  | .ror => [(.acc, 0x6A), (.zp, 0x66), (.zpx, 0x76), (.abs, 0x6E), (.abx, 0x7E)]
  | .inc => [(.zp, 0xE6), (.zpx, 0xF6), (.abs, 0xEE), (.abx, 0xFE)]
  | .dec => [(.zp, 0xC6), (.zpx, 0xD6), (.abs, 0xCE), (.abx, 0xDE)]
  | .inx => [(.imp, 0xE8)]
  | .iny => [(.imp, 0xC8)]
  | .dex => [(.imp, 0xCA)]
  | .dey => [(.imp, 0x88)]
  | .jmp => [(.abs, 0x4C), (.ind, 0x6C)]
  | .jsr => [(.abs, 0x20)]
  | .rts => [(.imp, 0x60)]
  | .bpl => [(.rel, 0x10)]
  | .bmi => [(.rel, 0x30)]
  | .bvc => [(.rel, 0x50)]
  | .bvs => [(.rel, 0x70)]
  | .bcc => [(.rel, 0x90)]
  | .bcs => [(.rel, 0xB0)]
  | .bne => [(.rel, 0xD0)]
  | .beq => [(.rel, 0xF0)]
  | .clc => [(.imp, 0x18)]
  | .sec => [(.imp, 0x38)]
  | .cli => [(.imp, 0x58)]
  | .sei => [(.imp, 0x78)]
  | .clv => [(.imp, 0xB8)]
  | .cld => [(.imp, 0xD8)]
  | .sed => [(.imp, 0xF8)]
  | .nop => [(.imp, 0xEA)]
  | .brk => [(.imp, 0x00)]
  | .rti => [(.imp, 0x40)]
  | .ill => []

/-- The opcode byte of an instruction, if it has one (R86, R88). -/
def Instr.opcode? : Instr → Option Byte
  | .ill op => some op
  | i => (i.kind.opcodes.find? (fun e => e.1 == i.mode)).map Prod.snd

/-- The bytes an operand is stored as, low byte first (R80, R81). -/
def Operand.bytes : Operand → List Byte
  | .acc => []
  | .imm b | .zp b | .zpx b | .zpy b | .izx b | .izy b => [b]
  | .abs w | .abx w | .aby w | .ind w => [lowByte w, highByte w]

/-- The operand bytes of an instruction (R80). -/
def Instr.operandBytes : Instr → List Byte
  | .lda o | .ldx o | .ldy o | .sta o | .stx o | .sty o => o.bytes
  | .ora o | .and o | .eor o | .adc o | .sbc o | .cmp o | .cpx o | .cpy o | .bit o => o.bytes
  | .asl o | .lsr o | .rol o | .ror o | .inc o | .dec o => o.bytes
  | .jmp o => o.bytes
  | .jsr w => [lowByte w, highByte w]
  | .bpl b | .bmi b | .bvc b | .bvs b | .bcc b | .bcs b | .bne b | .beq b => [b]
  | .tax | .tay | .txa | .tya | .tsx | .txs | .pha | .php | .pla | .plp => []
  | .inx | .iny | .dex | .dey | .rts => []
  | .clc | .sec | .cli | .sei | .clv | .cld | .sed | .nop | .brk | .rti => []
  | .ill _ => []

/-- The bytes of an instruction (R80, R86); nothing for a term that is no instruction. -/
def encode (i : Instr) : List Byte :=
  match i.opcode? with
  | some op => op :: i.operandBytes
  | none => []

/-- The cycles an instruction takes (R142): the base count, one more for a page crossing when the entry is marked, and for a
branch one more when taken and a further one when the taken branch crosses a page. -/
def Entry.cycles (e : Entry) (cross taken : Bool) : Nat :=
  e.base + (if e.pcx && cross then 1 else 0) + (if e.mode == .rel && taken then 1 else 0) +
    (if e.mode == .rel && taken && cross then 1 else 0)

/-- The instruction the decoder reads from an instruction whose bits are `w`, numbered from the first byte's bit 0; the bits
above `nbits` are zero. -/
def decodeTableWord (nbits w : Nat) : Option Instr :=
  let v := w % 2 ^ nbits
  match decode [BitVec.ofNat 8 v, BitVec.ofNat 8 (v / 256), BitVec.ofNat 8 (v / 65536)] with
  | .ok (i, _) => some i
  | .error _ => none

end Sys2Proof
end

