-- ==== Sys2Proof/Config.lean ====
section
/-! DEFINITION. What is fixed when a system is built: the parameters of R8, the Memory Devices and the bus map they are wired
into, the form of the block's outputs, and the one free value of the model, the byte an external device answers. -/

namespace Sys2Proof

/-- `ILLEGAL_POLICY` (R8, R88): what an undefined opcode byte does. `emulate` is named and has no rules (D1). -/
inductive IllegalPolicy
  | trap
  | emulate
deriving DecidableEq, Repr

/-- The parameters that are constant during a run (R8). -/
structure Config where
  /-- `OPEN_BUS`: the byte an unmapped address reads as (R56). -/
  openBus : Byte
  /-- `ILLEGAL_POLICY` (R88). -/
  illegalPolicy : IllegalPolicy
deriving DecidableEq, Repr

/-- The defaults of R8: `OPEN_BUS = 0xFF`, `ILLEGAL_POLICY = Trap`. -/
def Config.default : Config where
  openBus := 0xFF
  illegalPolicy := .trap

/-- `POWERON`: the registers and the status byte at construction (R8, R38), an argument of the launch state. -/
structure PowerOn where
  a : Byte
  x : Byte
  y : Byte
  sp : Byte
  p : Byte
deriving DecidableEq, Repr

/-- The simulator default of R8, for tests only (D7). DESIGN CHOICE (log 4), unsafe as a fact of the hardware. -/
def PowerOn.simulatorDefault : PowerOn where
  a := 0x00
  x := 0x00
  y := 0x00
  sp := 0x00
  p := 0x20

/-- A microcode step: one bus cycle of the core (R140). The descriptor carries the address and the byte transferred (D15). -/
inductive MicroStep
  | fetchOpcode (address : Word) (value : Byte)
  | readOperand (address : Word) (value : Byte)
  | writeOperand (address : Word) (value : Byte)
  | internalCycle
  | dummyRead (address : Word) (value : Byte)
deriving DecidableEq, Repr

/-- The bus transaction a step makes, if any: `InternalCycle` makes none (R140). -/
inductive BusAccess
  | read (address : Word)
  | write (address : Word) (value : Byte)
deriving DecidableEq, Repr

/-- The bus transaction of a step (R140). -/
def MicroStep.access : MicroStep → Option BusAccess
  | .fetchOpcode a _ => some (.read a)
  | .readOperand a _ => some (.read a)
  | .writeOperand a v => some (.write a v)
  | .internalCycle => none
  | .dummyRead a _ => some (.read a)

/-- A Memory Device (R52). `ram` and `rom` are the reference devices of R53; their contents stand in the state's memory, at
the bus addresses they are mapped to. `external` is any other device: outside the block, named by a number (log 6, 7). -/
inductive Device
  | ram
  | rom
  | external (id : Nat)
deriving DecidableEq, Repr

/-- One entry of the Bus Controller's `mappings`: an inclusive address range and the device that answers in it (R35). -/
structure Mapping where
  start : Word
  stop : Word
  device : Device
deriving DecidableEq, Repr

/-- A diagnostic event: an access to an unmapped address (R58). Its content is exactly the bus access (D15). -/
abbrev DiagnosticEvent := BusAccess

/-- The `IllegalOpcode(opcode, address)` signal delivered to the host (R296). -/
structure TrapSignal where
  opcode : Byte
  address : Word
deriving DecidableEq, Repr

/-- FREE VALUE (log 7): the byte an external device answers. R52 lets a device "return any device-defined value" and change its
own state on every access, so the answer may depend on which device it is, on every cycle the core has run so far (newest
first) and on the address; nothing else constrains it. -/
opaque Config.deviceByte : Nat → List MicroStep → Word → Byte

end Sys2Proof
end

