-- ==== Sys2Proof/Machine/State.lean ====
section
/-! DEFINITION. The state of the machine as plain data: everything 10_state.md gives it, the outputs of the block, the contents
of the memory devices and the parameters; the state at construction; the ways a step can stop. -/

namespace Sys2Proof.Machine

/-- The six stored flags of the status byte (R26). B and bit 5 have no storage (R28, R29). -/
structure Flags where
  /-- Negative, bit 7. -/
  n : Bool
  /-- Overflow, bit 6. -/
  v : Bool
  /-- Decimal, bit 3. -/
  d : Bool
  /-- Interrupt-disable, bit 2. -/
  i : Bool
  /-- Zero, bit 1. -/
  z : Bool
  /-- Carry, bit 0. -/
  c : Bool
deriving DecidableEq, Repr

/-- The FSM states that last across a cycle (R33, R102); the zero-cycle states are phases inside a cycle (log 11). -/
inductive Fsm
  | reset
  | fetch
  | execute
  | interrupt
  | trapped
deriving DecidableEq, Repr

/-- The instruction latches (R34), with the pointer byte `tl` of R155 and the `vector` of R162. Dead at a boundary (R103). -/
structure Latches where
  /-- `IR`: the opcode. -/
  ir : Byte
  /-- The index of the next cycle, from 1. -/
  t : Nat
  lo : Byte
  hi : Byte
  /-- The zero-page pointer. -/
  zp : Byte
  /-- The effective address; the target of a branch. -/
  ea : Word
  /-- The un-carried address (R128). -/
  unc : Word
  /-- The address computation crossed a page (R133). -/
  cross : Bool
  /-- The data byte read. -/
  m : Byte
  /-- The branch condition held (R153). -/
  taken : Bool
  /-- The low byte of the new PC, between cycles 4 and 5 of JMP indirect (R155). -/
  tl : Byte
  /-- The vector fixed at InterruptCheck (R104, R162). -/
  vector : Word
deriving DecidableEq, Repr

/-- Dead latches: cleared, because the instruction's latches are "discarded after execution" (R34). DESIGN CHOICE (log 10): no
rule reads a latch before the same instruction has written it. -/
def Latches.dead : Latches where
  ir := 0
  t := 1
  lo := 0
  hi := 0
  zp := 0
  ea := 0
  unc := 0
  cross := false
  m := 0
  taken := false
  tl := 0
  vector := 0

/-- The contents of the memory devices: bytes by bus address, in one canonical form (Memory.wf in Machine/Ops.lean). -/
abbrev Memory := List Host.Cell

/-- The machine (10_state.md, 20_memory.md, 40_core_fsm.md). -/
structure State where
  /-- The accumulator (R21). -/
  a : Byte
  /-- Index register X (R22). -/
  x : Byte
  /-- Index register Y (R23). -/
  y : Byte
  /-- The stack pointer (R24). -/
  sp : Byte
  /-- The program counter (R25). -/
  pc : Word
  /-- The stored flags (R26). -/
  flags : Flags
  /-- The level of the IRQ request (R32). -/
  irqLine : Bool
  /-- An NMI edge waits to be accepted (R32). -/
  nmiPending : Bool
  /-- 1 only while a BRK executes (R32). -/
  brkFlag : Bool
  /-- The FSM state (R33). -/
  fsm : Fsm
  /-- The instruction latches (R34). -/
  latches : Latches
  /-- The Bus Controller's mappings (R35). -/
  mappings : List Mapping
  /-- What the mapped RAM and ROM devices hold (R53, R103). -/
  mem : Memory
  /-- The diagnostic events emitted, newest first (R36, R58). -/
  diagnostics : List DiagnosticEvent
  /-- The IllegalOpcode signals delivered, newest first (R296). -/
  signals : List TrapSignal
  /-- The step descriptors returned by the cycles run so far, newest first (R104, R140). -/
  trace : List MicroStep
  /-- The parameters (R8). -/
  cfg : Config
deriving DecidableEq, Repr

/-- The state of a system at construction (R38, column (a)): the FSM in Reset before cycle 1 (R310), `POWERON` in the registers
and flags, a bus with the mappings it was built with. PC is unspecified there; DESIGN CHOICE 0x0000 (log 4). -/
def State.powerOn (cfg : Config) (p : PowerOn) (maps : List Mapping) (mem : Memory) : State where
  a := p.a
  x := p.x
  y := p.y
  sp := p.sp
  pc := 0x0000
  flags :=
    { n := p.p.getLsbD 7, v := p.p.getLsbD 6, d := p.p.getLsbD 3, i := p.p.getLsbD 2, z := p.p.getLsbD 1, c := p.p.getLsbD 0 }
  irqLine := false
  nmiPending := false
  brkFlag := false
  fsm := .reset
  latches := Latches.dead
  mappings := maps
  mem := mem
  diagnostics := []
  signals := []
  trace := []
  cfg := cfg

/-- The machine right after construction, before the reset sequence has run: default parameters, default power-on registers
(DESIGN CHOICE, log 4), no mapping and no memory contents (R38). The next step runs the reset sequence (log 5). -/
def State.reset : State := State.powerOn Config.default PowerOn.simulatorDefault [] []

/-- Why the machine stops. -/
inductive Fault
  /-- Raised by Step.lean's `step` in the FSM state Trapped, where the core performs no cycle until `reset()` (R113): the run has
  failed there (R324). Safe: the hardware stays where it is (log 2). -/
  | trapped
  /-- Raised by Machine/Cycle.lean for latches that no row of a cycle table has; no run reaches such latches. Safe (log 12). -/
  | noSuchCycle
deriving DecidableEq, Repr

/-- Why an instruction has no meaning. -/
inductive Refusal
  /-- Raised by Dispatch.lean alone, for an instruction that has no meaning yet. Safe. No arm uses it. -/
  | notModelled (mnemonic : String)
  /-- Raised by `ill` under `ILLEGAL_POLICY = Emulate`, for which the spec has no rules (R88, R296). Safe (log 3). -/
  | emulatePolicy (opcode : Byte)
  /-- Raised by a meaning given an operand form its instruction does not have (R86): no byte decodes to one. Safe (log 16). -/
  | noSuchForm
deriving DecidableEq, Repr

end Sys2Proof.Machine
end

