-- ==== Sys2Proof/Machine/Flags.lean ====
section
/-! DEFINITION. The status byte (10_state.md) and every flag and arithmetic computation of 45_alu.md and 46_rmw.md. -/

namespace Sys2Proof.Machine

/-- A flag as the integer of the pseudocode. -/
def bit01 (b : Bool) : Nat := if b then 1 else 0

/-- `P_push(b)`, the pushed copy of P (R30): bit 5 set, bit 4 is b. -/
def pPush (f : Flags) (b : Bool) : Byte :=
  BitVec.ofNat 8 (128 * bit01 f.n + 64 * bit01 f.v + 32 + 16 * bit01 b + 8 * bit01 f.d + 4 * bit01 f.i + 2 * bit01 f.z + bit01 f.c)

/-- `P_pull(m)` (R31): bits 5 and 4 of the byte are ignored. -/
def pPull (m : Byte) : Flags where
  n := m.getLsbD 7
  v := m.getLsbD 6
  d := m.getLsbD 3
  i := m.getLsbD 2
  z := m.getLsbD 1
  c := m.getLsbD 0

/-- P as the accessor returns it: bit 5 reads 1, bit 4 reads 0 (R28, R29, R40). -/
def State.p (s : State) : Byte := pPush s.flags false

/-- `setNZ(v)` (R11). -/
def Flags.setNZ (f : Flags) (v : Byte) : Flags := { f with n := v.getLsbD 7, z := v == 0 }

/-- The result byte, carry and overflow of an addition or subtraction. -/
structure Sum where
  r : Byte
  c : Bool
  v : Bool
deriving DecidableEq, Repr

/-- `add_binary(a, b, c)` (R210). -/
def addBinary (a b : Byte) (c : Bool) : Sum :=
  let s := a.toNat + b.toNat + bit01 c
  let r : Byte := BitVec.ofNat 8 s
  { r := r, c := decide (s > 0xFF), v := (~~~(a ^^^ b) &&& (a ^^^ r)).getLsbD 7 }

/-- The low nibble of a byte, `b[3:0]` (R13). -/
def lowNibble (b : Byte) : Nat := b.toNat % 16

/-- The high nibble of a byte, `b[7:4]` (R13). -/
def highNibble (b : Byte) : Nat := b.toNat / 16

/-- The correction of a decimal digit sum: add 6 to a nibble that exceeds 9 (R211). -/
def addCorrect (d : Nat) : Nat := if d > 9 then d + 6 else d

/-- `adc_decimal(a, b, c)` (R211). -/
def adcDecimal (a b : Byte) (c : Bool) : Sum :=
  let lo := addCorrect (lowNibble a + lowNibble b + bit01 c)
  let hi := addCorrect (highNibble a + highNibble b + bit01 (decide (lo > 0x0F)))
  { r := BitVec.ofNat 8 (16 * (hi % 16) + lo % 16), c := decide (hi > 0x0F), v := (addBinary a b c).v }

/-- The correction of a decimal digit difference: `(d - 6) mod 16` after a borrow (R212). -/
def subCorrect (d : Int) : Nat := if d < 0 then ((d - 6) % 16).toNat else d.toNat

/-- `sbc_decimal(a, b, c)` (R212). -/
def sbcDecimal (a b : Byte) (c : Bool) : Sum :=
  let lo : Int := lowNibble a - lowNibble b - (1 - bit01 c)
  let hi : Int := highNibble a - highNibble b - bit01 (decide (lo < 0))
  { r := BitVec.ofNat 8 (16 * subCorrect hi + subCorrect lo), c := decide (0 ≤ hi), v := (addBinary a (b ^^^ 0xFF) c).v }

/-- The sum ADC forms under the flags: binary or decimal by D (R204). -/
def adcSum (f : Flags) (a m : Byte) : Sum := if f.d then adcDecimal a m f.c else addBinary a m f.c

/-- The difference SBC forms under the flags: binary or decimal by D (R205). -/
def sbcSum (f : Flags) (a m : Byte) : Sum := if f.d then sbcDecimal a m f.c else addBinary a (m ^^^ 0xFF) f.c

/-- The flags after ADC or SBC (R204, R205): C and V of the sum, then `setNZ` of its result. -/
def Flags.afterSum (f : Flags) (r : Sum) : Flags := { f with c := r.c, v := r.v }.setNZ r.r

/-- `compare(r, m)` (R213). -/
def Flags.compare (f : Flags) (r m : Byte) : Flags :=
  { f with c := decide (m.toNat ≤ r.toNat), z := r == m, n := (r - m).getLsbD 7 }

/-- The flags of BIT (R209): Z from `A & m`, N and V from the operand. -/
def Flags.bitTest (f : Flags) (a m : Byte) : Flags :=
  { f with z := (a &&& m) == 0, n := m.getLsbD 7, v := m.getLsbD 6 }

/-- ASL's result (R221). -/
def aslValue (_ : Flags) (o : Byte) : Byte := o <<< 1

/-- ASL's flags (R221). -/
def aslFlags (f : Flags) (o : Byte) : Flags := { f with c := o.getLsbD 7 }.setNZ (aslValue f o)

/-- LSR's result (R222). -/
def lsrValue (_ : Flags) (o : Byte) : Byte := o >>> 1

/-- LSR's flags (R222). -/
def lsrFlags (f : Flags) (o : Byte) : Flags := { f with c := o.getLsbD 0 }.setNZ (lsrValue f o)

/-- ROL's result: the old carry enters bit 0 (R223). -/
def rolValue (f : Flags) (o : Byte) : Byte := (o <<< 1) ||| BitVec.ofNat 8 (bit01 f.c)

/-- ROL's flags (R223). -/
def rolFlags (f : Flags) (o : Byte) : Flags := { f with c := o.getLsbD 7 }.setNZ (rolValue f o)

/-- ROR's result: the old carry enters bit 7 (R224). -/
def rorValue (f : Flags) (o : Byte) : Byte := (o >>> 1) ||| BitVec.ofNat 8 (128 * bit01 f.c)

/-- ROR's flags (R224). -/
def rorFlags (f : Flags) (o : Byte) : Flags := { f with c := o.getLsbD 0 }.setNZ (rorValue f o)

/-- INC's result (R225). -/
def incValue (_ : Flags) (o : Byte) : Byte := o + 1

/-- INC's flags: N and Z only (R225). -/
def incFlags (f : Flags) (o : Byte) : Flags := f.setNZ (incValue f o)

/-- DEC's result (R226). -/
def decValue (_ : Flags) (o : Byte) : Byte := o - 1

/-- DEC's flags: N and Z only (R226). -/
def decFlags (f : Flags) (o : Byte) : Flags := f.setNZ (decValue f o)

end Sys2Proof.Machine
end

