-- ==== Sys2Proof/Machine/Ops.lean ====
section
/-! DEFINITION. The named operations over memory, bus, cycles, registers and stack (20_memory.md, 10_state.md, 42_microcode.md
R140), the shared entry sequence of BRK, IRQ and NMI (R161, R162), the return from it (R158), the illegal-opcode trap (R296)
and InterruptCheck (R283). -/

namespace Sys2Proof.Machine

/-! ## Memory contents -/

/-- What an unlisted address of a RAM or ROM device holds: `init(a)` is "0 unless stated" (R53, log 8). -/
def Memory.blank : Byte := 0x00

/-- The byte a memory device holds at an address. -/
def Memory.read : Memory → Nat → Byte
  | [], _ => Memory.blank
  | (b, w) :: rest, a => if b = a then w else Memory.read rest a

/-- A cell in front of the rest, left out when it holds what an unlisted address reads as. -/
def Memory.put (a : Nat) (v : Byte) (rest : Memory) : Memory := if v = Memory.blank then rest else (a, v) :: rest

/-- Stores one byte, keeping the canonical form. -/
def Memory.write : Memory → Nat → Byte → Memory
  | [], a, v => Memory.put a v []
  | (b, w) :: rest, a, v =>
    if a < b then Memory.put a v ((b, w) :: rest)
    else if a = b then Memory.put a v rest
    else (b, w) :: Memory.write rest a v

/-- Every listed address is above `low`, addresses rise strictly, none is outside the 16-bit space (R50), and no byte is the
one an unlisted address reads as. -/
def Memory.wfFrom : Nat → Memory → Bool
  | _, [] => true
  | low, (b, w) :: rest => decide (low ≤ b) && decide (b < 65536) && !(w == Memory.blank) && Memory.wfFrom (b + 1) rest

/-- The canonical form of memory contents: equal contents are equal lists. -/
def Memory.wf (m : Memory) : Bool := Memory.wfFrom 0 m

/-! ## The Bus Controller (20_memory.md) -/

/-- An address lies in a mapping's inclusive range (R54). -/
def covers (m : Mapping) (a : Word) : Bool := decide (m.start ≤ a) && decide (a ≤ m.stop)

/-- `lookup(addr)` (R55): the device mapped at an address, if any. -/
def lookup : List Mapping → Word → Option Device
  | [], _ => none
  | m :: rest, a => if covers m a then some m.device else lookup rest a

/-- The device that answers at an address (R55). -/
def State.deviceAt (s : State) (a : Word) : Option Device := lookup s.mappings a

/-- The byte `MemRead(addr)` returns at this moment (R56): what the mapped device answers, or `OPEN_BUS`. -/
def State.busValue (s : State) (a : Word) : Byte :=
  match s.deviceAt a with
  | none => s.cfg.openBus
  | some .ram => s.mem.read a.toNat
  | some .rom => s.mem.read a.toNat
  | some (.external id) => Config.deviceByte id s.trace a

/-- The diagnostic events after an access: one more when the address is unmapped (R58). -/
def State.diagnosticsAfter (s : State) (e : BusAccess) (a : Word) : List DiagnosticEvent :=
  match s.deviceAt a with
  | none => e :: s.diagnostics
  | some _ => s.diagnostics

/-- The memory contents after `MemWrite(addr, v)` (R53, R57): a RAM stores, a ROM and an unmapped address do not, and an
external device takes the byte outside the model. -/
def State.memAfterWrite (s : State) (a : Word) (v : Byte) : Memory :=
  match s.deviceAt a with
  | some .ram => s.mem.write a.toNat v
  | some .rom => s.mem
  | some (.external _) => s.mem
  | none => s.mem

/-! ## Cycles (R140): each runs one bus cycle and records its descriptor -/

/-- A read cycle whose descriptor is `step` (R56). -/
def State.readCycle (step : Word → Byte → MicroStep) (a : Word) (s : State) : State :=
  { s with
    trace := step a (s.busValue a) :: s.trace
    diagnostics := s.diagnosticsAfter (.read a) a }

/-- `FetchOpcode`: a read at PC; PC is advanced by `advancePc` (R141). -/
def State.fetchOpcode (s : State) : State := s.readCycle .fetchOpcode s.pc

/-- `ReadOperand(a)` (R140). The byte read is `busValue a` of the state before. -/
def State.readOperand (s : State) (a : Word) : State := s.readCycle .readOperand a

/-- `DummyRead(a)`: the device sees a read and the byte is discarded (R140). -/
def State.dummyRead (s : State) (a : Word) : State := s.readCycle .dummyRead a

/-- `WriteOperand(a, v)` (R57, R140). -/
def State.writeOperand (s : State) (a : Word) (v : Byte) : State :=
  { s with
    trace := .writeOperand a v :: s.trace
    mem := s.memAfterWrite a v
    diagnostics := s.diagnosticsAfter (.write a v) a }

/-- `InternalCycle`: no bus access (R140). -/
def State.internalCycle (s : State) : State := { s with trace := .internalCycle :: s.trace }

/-- `PC <- (PC + 1) mod 65536` (R25). -/
def State.advancePc (s : State) : State := { s with pc := s.pc + 1 }

/-- `fetch`: `ReadOperand(PC)` and the increment (R141). -/
def State.fetchByte (s : State) : State := (s.readOperand s.pc).advancePc

/-! ## The stack (R24) -/

/-- `0x01:SP` (R24). -/
def stackAddress (sp : Byte) : Word := wordOf 0x01 sp

/-- `push(v)`: write at `0x01:SP`, then SP - 1; one cycle (R11, R24). -/
def State.push (s : State) (v : Byte) : State :=
  let s := s.writeOperand (stackAddress s.sp) v
  { s with sp := s.sp - 1 }

/-- `SP <- (SP + 1) mod 256`, the first half of a pull (R24). -/
def State.popSp (s : State) : State := { s with sp := s.sp + 1 }

/-- The byte at `0x01:SP`, as a read there answers. -/
def State.stackTop (s : State) : Byte := s.busValue (stackAddress s.sp)

/-- `ReadOperand(0x01:SP)`, the second half of a pull (R24). -/
def State.readStack (s : State) : State := s.readOperand (stackAddress s.sp)

/-! ## Instruction boundaries -/

/-- The end of an instruction or sequence (R103): the FSM in Fetch, `brk_flag` 0, the latches dead. -/
def State.endInstruction (s : State) : State := { s with fsm := .fetch, latches := Latches.dead, brkFlag := false }

/-- The end of an instruction as the outcome of its meaning. -/
def done (s : State) : Host.Outcome State Fault Refusal := .next s.endInstruction

/-! ## Taking an exception -/

/-- The vectors (R51). -/
def nmiVector : Word := 0xFFFA

/-- The reset vector (R51). -/
def resetVector : Word := 0xFFFC

/-- The vector shared by IRQ and BRK (R51). -/
def irqVector : Word := 0xFFFE

/-- Cycle 3 of the entry: `push(hi(PC))` (R161, R162). -/
def State.pushPcHigh (s : State) : State := s.push (highByte s.pc)

/-- Cycle 4 of the entry: `push(lo(PC))` (R161, R162). -/
def State.pushPcLow (s : State) : State := s.push (lowByte s.pc)

/-- Cycle 5 of the entry: the status push, then `I <- 1` (R143, R161, R162). The pushed B is `brk_flag` (R32, log 18), and the
pushed I is the one from before. -/
def State.pushStatus (s : State) : State :=
  let s := s.push (pPush s.flags s.brkFlag)
  { s with flags := { s.flags with i := true } }

/-- Loads PC from a vector, low byte first: two `ReadOperand` cycles (R60, R161 to R163). -/
def State.loadVector (s : State) (vector : Word) : State :=
  let lo := s.busValue vector
  let s := s.readOperand vector
  let hi := s.busValue (vector + 1)
  let s := s.readOperand (vector + 1)
  { s with pc := wordOf hi lo }

/-- TAKING AN EXCEPTION: the five cycles that BRK, IRQ and NMI share (R288): PC high, PC low and the status pushed, I set, PC
from the vector. A, X, Y and the other flags stay. -/
def State.enterVector (s : State) (vector : Word) : State :=
  s.pushPcHigh.pushPcLow.pushStatus.loadVector vector

/-- RETURN FROM AN EXCEPTION (R158, R269): pull the status, PC low and PC high; nothing is added to the address. The first SP
increment is made before the first read. -/
def State.returnFromInterrupt (s : State) : State :=
  let s := s.popSp
  let m := s.stackTop
  let s := s.readStack.popSp
  let lo := s.stackTop
  let s := s.readStack.popSp
  let hi := s.stackTop
  let s := s.readStack
  { s with pc := wordOf hi lo, flags := pPull m }

/-- The IllegalOpcode trap after the fetch cycle (R164, R296): the FSM in Trapped and the signal delivered; PC still addresses
the byte and nothing else changes. The latches are dead (R103). -/
def State.raiseIllegalOpcode (s : State) (opcode : Byte) : State :=
  { s with
    fsm := .trapped
    latches := Latches.dead
    signals := { opcode := opcode, address := s.pc } :: s.signals }

/-- What an undefined opcode byte does under the policy (R88, R296). -/
def illegalOpcode (opcode : Byte) (s : State) : Host.Outcome State Fault Refusal :=
  match s.cfg.illegalPolicy with
  | .trap => .next (s.raiseIllegalOpcode opcode)
  | .emulate => .refused (.emulatePolicy opcode)

/-! ## InterruptCheck (R283 to R287) -/

/-- An interrupt is accepted: the FSM goes to Interrupt with the vector fixed (R104). -/
def State.accept (s : State) (vector : Word) : State :=
  { s with fsm := .interrupt, latches := { Latches.dead with vector := vector } }

/-- InterruptCheck (R104, R284, R285): NMI first, cleared at acceptance; then IRQ if I is 0. -/
def State.interruptCheck (s : State) : State :=
  if s.nmiPending then { s with nmiPending := false }.accept nmiVector
  else if s.irqLine && !s.flags.i then s.accept irqVector
  else s

/-- The interrupt entry sequence as a whole: seven cycles, no InterruptCheck after it (R162, R283). -/
def State.interruptSequence (s : State) : State :=
  (s.internalCycle.internalCycle.enterVector s.latches.vector).endInstruction

/-- InterruptCheck at the end of an instruction with the entry it triggers (R105). -/
def State.serviceInterrupts (s : State) : State :=
  let s := s.interruptCheck
  if s.fsm = .interrupt then s.interruptSequence else s

end Sys2Proof.Machine
end

