-- ==== Sys2Proof/Machine/Operands.lean ====
section
/-! DEFINITION. The Addressing Mode Resolver (41_addressing_modes.md) and the three access classes over it (R144): read, write
and read-modify-write, with the dummy reads and cycles of the templates of 42_microcode.md. A meaning receives the state after
the opcode and the operand bytes have been fetched, so PC is the address of the next instruction. -/

namespace Sys2Proof.Machine

/-- `sext_8(b)` as a 16-bit addend (R10). -/
def signExtend (b : Byte) : Word := b.signExtend 16

/-- `0x00:b`, an address in page 0 (R124). -/
def zeroPage (b : Byte) : Word := wordOf 0x00 b

/-- The page-cross report of an index addition: the low byte carries (R128). -/
def indexCrosses (lo idx : Byte) : Bool := decide (lo.toNat + idx.toNat > 0xFF)

/-- The un-carried address `hi:((lo + idx) mod 256)` (R128). -/
def uncarried (base : Word) (idx : Byte) : Word := wordOf (highByte base) (lowByte base + idx)

/-- The indexed address `(base + idx) mod 65536` (R128). -/
def indexed (base : Word) (idx : Byte) : Word := base + idx.zeroExtend 16

/-- `hi:((lo + 1) mod 256)`: where JMP indirect finds the pointer's high byte (R129). -/
def samePageNext (pointer : Word) : Word := wordOf (highByte pointer) (lowByte pointer + 1)

/-- What the resolver gives for a mode with a memory operand (R120): the effective address, the un-carried address where the
mode has one, the page-cross report, and the state after the reads the resolver makes itself. -/
structure Resolution where
  ea : Word
  unc : Option Word
  cross : Bool
  after : State

/-- An absolute indexed resolution; no read yet, the dummy read depends on the access class (R128, R131). -/
def resolveIndexed (base : Word) (idx : Byte) (s : State) : Resolution where
  ea := indexed base idx
  unc := some (uncarried base idx)
  cross := indexCrosses (lowByte base) idx
  after := s

/-- Zero page indexed: one dummy read at the un-indexed address, and the sum wraps in page 0 (R125, R126). The page-cross report is
the carry of the sum; it has no effect: no un-carried address, no cycle, and `ea` stays in page 0 (R133, 90_conflicts.md C4). -/
def resolveZeroPageIndexed (b idx : Byte) (s : State) : Resolution where
  ea := zeroPage (b + idx)
  unc := none
  cross := indexCrosses b idx
  after := s.dummyRead (zeroPage b)

/-- The pointer held at `b` and `(b + 1) mod 256` of page 0, low byte first (R60, R130, R131). -/
def State.pagedPointer (s : State) (b : Byte) : Word :=
  wordOf ((s.readOperand (zeroPage b)).busValue (zeroPage (b + 1))) (s.busValue (zeroPage b))

/-- The two reads of such a pointer (R151, R152). -/
def State.readPointer (s : State) (b : Byte) : State :=
  (s.readOperand (zeroPage b)).readOperand (zeroPage (b + 1))

/-- Indexed-indirect (R130): dummy read at the un-indexed address, then the pointer at `(b + X) mod 256`. -/
def resolveIndexedIndirect (b : Byte) (s : State) : Resolution :=
  let s1 := s.dummyRead (zeroPage b)
  { ea := s1.pagedPointer (b + s.x), unc := none, cross := false, after := s1.readPointer (b + s.x) }

/-- Indirect-indexed (R131): the pointer at b, then as Absolute,Y on it. -/
def resolveIndirectIndexed (b : Byte) (s : State) : Resolution :=
  resolveIndexed (s.pagedPointer b) s.y (s.readPointer b)

/-- The resolver for the modes with a memory operand that an access follows (R124 to R128, R130, R131). -/
def resolve (o : Operand) (s : State) : Option Resolution :=
  match o with
  | .acc => none
  | .imm _ => none
  | .ind _ => none
  | .zp b => some { ea := zeroPage b, unc := none, cross := false, after := s }
  | .zpx b => some (resolveZeroPageIndexed b s.x s)
  | .zpy b => some (resolveZeroPageIndexed b s.y s)
  | .abs w => some { ea := w, unc := none, cross := false, after := s }
  | .abx w => some (resolveIndexed w s.x s)
  | .aby w => some (resolveIndexed w s.y s)
  | .izx b => some (resolveIndexedIndirect b s)
  | .izy b => some (resolveIndirectIndexed b s)

/-- Before a read: the dummy read at the un-carried address only on a page crossing (R128, R150, R152). -/
def Resolution.beforeRead (r : Resolution) : State :=
  match r.unc with
  | some u => if r.cross then r.after.dummyRead u else r.after
  | none => r.after

/-- Before a write or a read-modify-write: that dummy read always (R128, R150, R152). -/
def Resolution.beforeWrite (r : Resolution) : State :=
  match r.unc with
  | some u => r.after.dummyRead u
  | none => r.after

/-- The byte a read-class instruction gets from a resolved operand. -/
def Resolution.value (r : Resolution) : Byte := r.beforeRead.busValue r.ea

/-- The state after the operand read of a read-class instruction. -/
def Resolution.read (r : Resolution) : State := r.beforeRead.readOperand r.ea

/-- A form R86 does not give the instruction is refused; no byte decodes to one (log 16). -/
def ifFormed (k : Kind) (m : Mode) (run : Host.Outcome State Fault Refusal) : Host.Outcome State Fault Refusal :=
  if k.modes.contains m then run else .refused .noSuchForm

/-- Read class (R144): the operand byte is the immediate byte or the byte read at `ea`; then the operation commits. -/
def readClass (k : Kind) (o : Operand) (op : Byte → State → State) (s : State) : Host.Outcome State Fault Refusal :=
  ifFormed k o.mode <|
    match o with
    | .imm b => done (op b s)
    | o =>
      match resolve o s with
      | some r => done (op r.value r.read)
      | none => .refused .noSuchForm

/-- Write class (R144): one `WriteOperand(ea, v)`; the operand is not read. -/
def writeClass (k : Kind) (o : Operand) (v : Byte) (s : State) : Host.Outcome State Fault Refusal :=
  ifFormed k o.mode <|
    match resolve o s with
    | some r => done (r.beforeWrite.writeOperand r.ea v)
    | none => .refused .noSuchForm

/-- The result and the flags of a read-modify-write operation, from the flags before it and the old value (R143, R220). -/
structure ModifyOp where
  value : Flags → Byte → Byte
  flags : Flags → Byte → Flags

/-- The three last cycles of a read-modify-write instruction (R144): read, write the old value back, write the new one; then
the flags. -/
def ModifyOp.onMemory (op : ModifyOp) (r : Resolution) : State :=
  let m := r.beforeWrite.busValue r.ea
  let s := r.beforeWrite.readOperand r.ea
  let s := (s.writeOperand r.ea m).writeOperand r.ea (op.value s.flags m)
  { s with flags := op.flags s.flags m }

/-- The Accumulator form: one internal cycle (R145, R220). -/
def ModifyOp.onAccumulator (op : ModifyOp) (s : State) : State :=
  let s := s.internalCycle
  { s with a := op.value s.flags s.a, flags := op.flags s.flags s.a }

/-- Read-modify-write class and the Accumulator forms (R144, R220). -/
def modifyClass (k : Kind) (o : Operand) (op : ModifyOp) (s : State) : Host.Outcome State Fault Refusal :=
  ifFormed k o.mode <|
    match o with
    | .acc => done (op.onAccumulator s)
    | o =>
      match resolve o s with
      | some r => done (op.onMemory r)
      | none => .refused .noSuchForm

/-- The two-cycle one-byte instructions (R145): one internal cycle, then the operation commits. -/
def impliedClass (op : State → State) (s : State) : Host.Outcome State Fault Refusal := done (op s.internalCycle)

/-- The target of a branch, `(PCn + sext_8(b1)) mod 65536` (R132). -/
def branchTarget (pcn : Word) (off : Byte) : Word := pcn + signExtend off

/-- The page-cross report of a branch, `hi(target) != hi(PCn)` (R132). -/
def branchCrosses (pcn : Word) (off : Byte) : Bool := highByte (branchTarget pcn off) != highByte pcn

/-- The cycles of a branch after its offset is fetched (R153): none, one, or two when the taken branch crosses a page. -/
def branchClass (cond : Bool) (off : Byte) (s : State) : Host.Outcome State Fault Refusal :=
  if cond then
    let s1 := s.internalCycle
    let s2 := if branchCrosses s.pc off then s1.internalCycle else s1
    done { s2 with pc := branchTarget s.pc off }
  else done s

end Sys2Proof.Machine
end

