-- ==== Sys2Proof/Machine/LoadStore.lean ====
section
/-! DEFINITION. Load, store and register-transfer instructions (43_load_store_transfer.md, R170 to R181). -/

namespace Sys2Proof.Machine

/-- `A <- m; setNZ(m)` (R170). -/
def State.loadA (m : Byte) (s : State) : State := { s with a := m, flags := s.flags.setNZ m }

/-- `X <- m; setNZ(m)` (R171). -/
def State.loadX (m : Byte) (s : State) : State := { s with x := m, flags := s.flags.setNZ m }

/-- `Y <- m; setNZ(m)` (R172). -/
def State.loadY (m : Byte) (s : State) : State := { s with y := m, flags := s.flags.setNZ m }

/-- TAX (R176). -/
def State.taxOp (s : State) : State := s.loadX s.a

/-- TAY (R177). -/
def State.tayOp (s : State) : State := s.loadY s.a

/-- TXA (R178). -/
def State.txaOp (s : State) : State := s.loadA s.x

/-- TYA (R179). -/
def State.tyaOp (s : State) : State := s.loadA s.y

/-- TSX (R180). -/
def State.tsxOp (s : State) : State := s.loadX s.sp

/-- TXS writes no flag (R181). -/
def State.txsOp (s : State) : State := { s with sp := s.x }

/-- LDA (R170). -/
def execLda (o : Operand) (s : State) : Host.Outcome State Fault Refusal := readClass .lda o State.loadA s

/-- LDX (R171). -/
def execLdx (o : Operand) (s : State) : Host.Outcome State Fault Refusal := readClass .ldx o State.loadX s

/-- LDY (R172). -/
def execLdy (o : Operand) (s : State) : Host.Outcome State Fault Refusal := readClass .ldy o State.loadY s

/-- STA (R173). -/
def execSta (o : Operand) (s : State) : Host.Outcome State Fault Refusal := writeClass .sta o s.a s

/-- STX (R174). -/
def execStx (o : Operand) (s : State) : Host.Outcome State Fault Refusal := writeClass .stx o s.x s

/-- STY (R175). -/
def execSty (o : Operand) (s : State) : Host.Outcome State Fault Refusal := writeClass .sty o s.y s

/-- TAX (R176). -/
def execTax (s : State) : Host.Outcome State Fault Refusal := impliedClass State.taxOp s

/-- TAY (R177). -/
def execTay (s : State) : Host.Outcome State Fault Refusal := impliedClass State.tayOp s

/-- TXA (R178). -/
def execTxa (s : State) : Host.Outcome State Fault Refusal := impliedClass State.txaOp s

/-- TYA (R179). -/
def execTya (s : State) : Host.Outcome State Fault Refusal := impliedClass State.tyaOp s

/-- TSX (R180). -/
def execTsx (s : State) : Host.Outcome State Fault Refusal := impliedClass State.tsxOp s

/-- TXS (R181). -/
def execTxs (s : State) : Host.Outcome State Fault Refusal := impliedClass State.txsOp s

end Sys2Proof.Machine
end

