-- ==== Sys2Proof/Machine/Alu.lean ====
section
/-! DEFINITION. ALU instructions: logic, add, subtract, compare, bit test (45_alu.md, R200 to R214). -/

namespace Sys2Proof.Machine

/-- `A <- A | m; setNZ(A)` (R201). -/
def State.orOp (m : Byte) (s : State) : State := s.loadA (s.a ||| m)

/-- `A <- A & m; setNZ(A)` (R202). -/
def State.andOp (m : Byte) (s : State) : State := s.loadA (s.a &&& m)

/-- `A <- A ^ m; setNZ(A)` (R203). -/
def State.eorOp (m : Byte) (s : State) : State := s.loadA (s.a ^^^ m)

/-- ADC's commit (R204). -/
def State.adcOp (m : Byte) (s : State) : State :=
  { s with a := (adcSum s.flags s.a m).r, flags := s.flags.afterSum (adcSum s.flags s.a m) }

/-- SBC's commit (R205). -/
def State.sbcOp (m : Byte) (s : State) : State :=
  { s with a := (sbcSum s.flags s.a m).r, flags := s.flags.afterSum (sbcSum s.flags s.a m) }

/-- `compare(A, m)` (R206). -/
def State.cmpOp (m : Byte) (s : State) : State := { s with flags := s.flags.compare s.a m }

/-- `compare(X, m)` (R207). -/
def State.cpxOp (m : Byte) (s : State) : State := { s with flags := s.flags.compare s.x m }

/-- `compare(Y, m)` (R208). -/
def State.cpyOp (m : Byte) (s : State) : State := { s with flags := s.flags.compare s.y m }

/-- BIT's commit (R209). -/
def State.bitOp (m : Byte) (s : State) : State := { s with flags := s.flags.bitTest s.a m }

/-- ORA (R201). -/
def execOra (o : Operand) (s : State) : Host.Outcome State Fault Refusal := readClass .ora o State.orOp s

/-- AND (R202). -/
def execAnd (o : Operand) (s : State) : Host.Outcome State Fault Refusal := readClass .and o State.andOp s

/-- EOR (R203). -/
def execEor (o : Operand) (s : State) : Host.Outcome State Fault Refusal := readClass .eor o State.eorOp s

/-- ADC (R204). -/
def execAdc (o : Operand) (s : State) : Host.Outcome State Fault Refusal := readClass .adc o State.adcOp s

/-- SBC (R205). -/
def execSbc (o : Operand) (s : State) : Host.Outcome State Fault Refusal := readClass .sbc o State.sbcOp s

/-- CMP (R206). -/
def execCmp (o : Operand) (s : State) : Host.Outcome State Fault Refusal := readClass .cmp o State.cmpOp s

/-- CPX (R207). -/
def execCpx (o : Operand) (s : State) : Host.Outcome State Fault Refusal := readClass .cpx o State.cpxOp s

/-- CPY (R208). -/
def execCpy (o : Operand) (s : State) : Host.Outcome State Fault Refusal := readClass .cpy o State.cpyOp s

/-- BIT (R209). -/
def execBit (o : Operand) (s : State) : Host.Outcome State Fault Refusal := readClass .bit o State.bitOp s

end Sys2Proof.Machine
end

