-- ==== Sys2Proof/Machine/Control.lean ====
section
/-! DEFINITION. Control transfer: jumps, subroutine call and return, branches (47_control.md, R240 to R251). -/

namespace Sys2Proof.Machine

/-- The new PC of JMP indirect: both pointer bytes from one page (R129, R240). -/
def State.indirectTarget (s : State) (ptr : Word) : Word :=
  wordOf ((s.readOperand ptr).busValue (samePageNext ptr)) (s.busValue ptr)

/-- The two pointer reads of JMP indirect (R155). -/
def State.readIndirect (s : State) (ptr : Word) : State := (s.readOperand ptr).readOperand (samePageNext ptr)

/-- JMP (R240): the absolute form takes PC from the operand, which its last fetch has read; the indirect form from the pointer. -/
def execJmp (o : Operand) (s : State) : Host.Outcome State Fault Refusal :=
  match o with
  | .abs w => done { s with pc := w }
  | .ind w => done { s.readIndirect w with pc := s.indirectTarget w }
  | _ => .refused .noSuchForm

/-- JSR's cycles 3 to 5: an internal cycle and the two pushes of PC, which addresses the instruction's last byte (R156, R241). -/
def State.jsrPush (s : State) : State := s.internalCycle.pushPcHigh.pushPcLow

/-- JSR (R241): the state has the opcode and the low operand byte fetched. The high byte is read at PC after the two pushes, so
it is what memory holds then and not the byte the decoder saw (log 15). -/
def execJsr (target : Word) (s : State) : Host.Outcome State Fault Refusal :=
  let s := s.jsrPush
  let hi := s.busValue s.pc
  done { s.readOperand s.pc with pc := wordOf hi (lowByte target) }

/-- RTS (R157, R242): pull PC low and PC high, then add 1. -/
def execRts (s : State) : Host.Outcome State Fault Refusal :=
  let s := s.internalCycle.internalCycle.popSp
  let lo := s.stackTop
  let s := s.readStack.popSp
  let hi := s.stackTop
  let s := s.readStack
  done { s.internalCycle with pc := wordOf hi lo + 1 }

/-- BPL (R243). -/
def execBpl (off : Byte) (s : State) : Host.Outcome State Fault Refusal := branchClass (!s.flags.n) off s

/-- BMI (R244). -/
def execBmi (off : Byte) (s : State) : Host.Outcome State Fault Refusal := branchClass s.flags.n off s

/-- BVC (R245). -/
def execBvc (off : Byte) (s : State) : Host.Outcome State Fault Refusal := branchClass (!s.flags.v) off s

/-- BVS (R246). -/
def execBvs (off : Byte) (s : State) : Host.Outcome State Fault Refusal := branchClass s.flags.v off s

/-- BCC (R247). -/
def execBcc (off : Byte) (s : State) : Host.Outcome State Fault Refusal := branchClass (!s.flags.c) off s

/-- BCS (R248). -/
def execBcs (off : Byte) (s : State) : Host.Outcome State Fault Refusal := branchClass s.flags.c off s

/-- BNE (R249). -/
def execBne (off : Byte) (s : State) : Host.Outcome State Fault Refusal := branchClass (!s.flags.z) off s

/-- BEQ (R250). -/
def execBeq (off : Byte) (s : State) : Host.Outcome State Fault Refusal := branchClass s.flags.z off s

end Sys2Proof.Machine
end

