-- ==== Sys2Proof/Machine/FlagSystem.lean ====
section
/-! DEFINITION. Flag instructions, NOP, BRK, RTI (48_flag_system.md, R260 to R269) and the undefined opcode bytes (R296). -/

namespace Sys2Proof.Machine

/-- `C <- 0` (R260). -/
def State.clcOp (s : State) : State := { s with flags := { s.flags with c := false } }

/-- `C <- 1` (R261). -/
def State.secOp (s : State) : State := { s with flags := { s.flags with c := true } }

/-- `I <- 0` (R262). -/
def State.cliOp (s : State) : State := { s with flags := { s.flags with i := false } }

/-- `I <- 1` (R263). -/
def State.seiOp (s : State) : State := { s with flags := { s.flags with i := true } }

/-- `V <- 0` (R264). -/
def State.clvOp (s : State) : State := { s with flags := { s.flags with v := false } }

/-- `D <- 0` (R265). -/
def State.cldOp (s : State) : State := { s with flags := { s.flags with d := false } }

/-- `D <- 1` (R266). -/
def State.sedOp (s : State) : State := { s with flags := { s.flags with d := true } }

/-- NOP has no effect (R267). -/
def State.nopOp (s : State) : State := s

/-- CLC (R260). -/
def execClc (s : State) : Host.Outcome State Fault Refusal := impliedClass State.clcOp s

/-- SEC (R261). -/
def execSec (s : State) : Host.Outcome State Fault Refusal := impliedClass State.secOp s

/-- CLI (R262). -/
def execCli (s : State) : Host.Outcome State Fault Refusal := impliedClass State.cliOp s

/-- SEI (R263). -/
def execSei (s : State) : Host.Outcome State Fault Refusal := impliedClass State.seiOp s

/-- CLV (R264). -/
def execClv (s : State) : Host.Outcome State Fault Refusal := impliedClass State.clvOp s

/-- CLD (R265). -/
def execCld (s : State) : Host.Outcome State Fault Refusal := impliedClass State.cldOp s

/-- SED (R266). -/
def execSed (s : State) : Host.Outcome State Fault Refusal := impliedClass State.sedOp s

/-- NOP (R267). -/
def execNop (s : State) : Host.Outcome State Fault Refusal := impliedClass State.nopOp s

/-- `brk_flag` is 1 from BRK's first cycle on (R161). -/
def State.raiseBrkFlag (s : State) : State := { s with brkFlag := true }

/-- BRK (R161, R268): the padding byte is skipped by an internal cycle, then the shared entry with `brk_flag` set, which gives
B = 1 in the pushed status; the vector is IRQ's. -/
def execBrk (s : State) : Host.Outcome State Fault Refusal :=
  done (s.raiseBrkFlag.internalCycle.advancePc.enterVector irqVector)

/-- RTI (R158, R269). -/
def execRti (s : State) : Host.Outcome State Fault Refusal := done s.internalCycle.internalCycle.returnFromInterrupt

/-- An undefined opcode byte (R88, R296): the state has the fetch cycle performed and PC still on the byte. -/
def execIll (opcode : Byte) (s : State) : Host.Outcome State Fault Refusal :=
  if undefinedOpcodes.contains opcode then illegalOpcode opcode s else .refused .noSuchForm

end Sys2Proof.Machine
end

