-- ==== Sys2Proof/Machine/Rmw.lean ====
section
/-! DEFINITION. Shift, rotate, increment and decrement instructions (46_rmw.md, R220 to R230). -/

namespace Sys2Proof.Machine

/-- ASL (R221). -/
def aslOp : ModifyOp := { value := aslValue, flags := aslFlags }

/-- LSR (R222). -/
def lsrOp : ModifyOp := { value := lsrValue, flags := lsrFlags }

/-- ROL (R223). -/
def rolOp : ModifyOp := { value := rolValue, flags := rolFlags }

/-- ROR (R224). -/
def rorOp : ModifyOp := { value := rorValue, flags := rorFlags }

/-- INC (R225). -/
def incOp : ModifyOp := { value := incValue, flags := incFlags }

/-- DEC (R226). -/
def decOp : ModifyOp := { value := decValue, flags := decFlags }

/-- INX (R227). -/
def State.inxOp (s : State) : State := s.loadX (s.x + 1)

/-- INY (R228). -/
def State.inyOp (s : State) : State := s.loadY (s.y + 1)

/-- DEX (R229). -/
def State.dexOp (s : State) : State := s.loadX (s.x - 1)

/-- DEY (R230). -/
def State.deyOp (s : State) : State := s.loadY (s.y - 1)

/-- ASL (R221). -/
def execAsl (o : Operand) (s : State) : Host.Outcome State Fault Refusal := modifyClass .asl o aslOp s

/-- LSR (R222). -/
def execLsr (o : Operand) (s : State) : Host.Outcome State Fault Refusal := modifyClass .lsr o lsrOp s

/-- ROL (R223). -/
def execRol (o : Operand) (s : State) : Host.Outcome State Fault Refusal := modifyClass .rol o rolOp s

/-- ROR (R224). -/
def execRor (o : Operand) (s : State) : Host.Outcome State Fault Refusal := modifyClass .ror o rorOp s

/-- INC (R225). -/
def execInc (o : Operand) (s : State) : Host.Outcome State Fault Refusal := modifyClass .inc o incOp s

/-- DEC (R226). -/
def execDec (o : Operand) (s : State) : Host.Outcome State Fault Refusal := modifyClass .dec o decOp s

/-- INX (R227). -/
def execInx (s : State) : Host.Outcome State Fault Refusal := impliedClass State.inxOp s

/-- INY (R228). -/
def execIny (s : State) : Host.Outcome State Fault Refusal := impliedClass State.inyOp s

/-- DEX (R229). -/
def execDex (s : State) : Host.Outcome State Fault Refusal := impliedClass State.dexOp s

/-- DEY (R230). -/
def execDey (s : State) : Host.Outcome State Fault Refusal := impliedClass State.deyOp s

end Sys2Proof.Machine
end

