-- ==== Sys2Proof/Machine/Stack.lean ====
section
/-! DEFINITION. Stack instructions (44_stack.md, R190 to R193), by the templates `T_PUSH` (R159) and `T_PULL` (R160). -/

namespace Sys2Proof.Machine

/-- `P_pull(m)` committed to the flags (R31, R193). -/
def State.pullFlags (m : Byte) (s : State) : State := { s with flags := pPull m }

/-- `T_PUSH` after the fetch: one internal cycle, then the push (R159). -/
def pushClass (v : Byte) (s : State) : Host.Outcome State Fault Refusal := done (s.internalCycle.push v)

/-- `T_PULL` after the fetch: two internal cycles, SP + 1 on the second, then the read and the commit (R160). -/
def pullClass (op : Byte → State → State) (s : State) : Host.Outcome State Fault Refusal :=
  let s := s.internalCycle.internalCycle.popSp
  done (op s.stackTop s.readStack)

/-- PHA (R190). -/
def execPha (s : State) : Host.Outcome State Fault Refusal := pushClass s.a s

/-- PHP pushes `P_push(1)` (R191). -/
def execPhp (s : State) : Host.Outcome State Fault Refusal := pushClass (pPush s.flags true) s

/-- PLA (R192). -/
def execPla (s : State) : Host.Outcome State Fault Refusal := pullClass State.loadA s

/-- PLP (R193). -/
def execPlp (s : State) : Host.Outcome State Fault Refusal := pullClass State.pullFlags s

end Sys2Proof.Machine
end

