-- ==== Sys2Proof/Machine/Cycle.lean ====
section
/-! DEFINITION. The machine one bus cycle at a time: the cycle templates of 42_microcode.md (R145 to R164), `step_cycle` (R104)
and `execute_instruction` (R105). It shares every operation with the instruction-level meanings; what it adds is on which cycle
each bus access and each effect happens, and the latches in between. -/

namespace Sys2Proof.Machine

/-! ## Access classes (R144) -/

/-- What an instruction does with its operand: the access class of R144 with the operation it commits. -/
inductive Access
  | read (op : Byte → State → State)
  | write (v : State → Byte)
  | modify (op : ModifyOp)

/-- The access class of an instruction kind (R144, R166); none for the kinds with a template of their own. -/
def kindAccess : Kind → Option Access
  | .lda => some (.read State.loadA)
  | .ldx => some (.read State.loadX)
  | .ldy => some (.read State.loadY)
  | .ora => some (.read State.orOp)
  | .and => some (.read State.andOp)
  | .eor => some (.read State.eorOp)
  | .adc => some (.read State.adcOp)
  | .sbc => some (.read State.sbcOp)
  | .cmp => some (.read State.cmpOp)
  | .cpx => some (.read State.cpxOp)
  | .cpy => some (.read State.cpyOp)
  | .bit => some (.read State.bitOp)
  | .sta => some (.write State.a)
  | .stx => some (.write State.x)
  | .sty => some (.write State.y)
  | .asl => some (.modify aslOp)
  | .lsr => some (.modify lsrOp)
  | .rol => some (.modify rolOp)
  | .ror => some (.modify rorOp)
  | .inc => some (.modify incOp)
  | .dec => some (.modify decOp)
  | .tax | .tay | .txa | .tya | .tsx | .txs => none
  | .pha | .php | .pla | .plp => none
  | .inx | .iny | .dex | .dey => none
  | .jmp | .jsr | .rts => none
  | .bpl | .bmi | .bvc | .bvs | .bcc | .bcs | .bne | .beq => none
  | .clc | .sec | .cli | .sei | .clv | .cld | .sed | .nop | .brk | .rti => none
  | .ill => none

/-- The operation of the Implied two-cycle instructions (R145). -/
def kindImpliedOp : Kind → Option (State → State)
  | .tax => some State.taxOp
  | .tay => some State.tayOp
  | .txa => some State.txaOp
  | .tya => some State.tyaOp
  | .tsx => some State.tsxOp
  | .txs => some State.txsOp
  | .inx => some State.inxOp
  | .iny => some State.inyOp
  | .dex => some State.dexOp
  | .dey => some State.deyOp
  | .clc => some State.clcOp
  | .sec => some State.secOp
  | .cli => some State.cliOp
  | .sei => some State.seiOp
  | .clv => some State.clvOp
  | .cld => some State.cldOp
  | .sed => some State.sedOp
  | .nop => some State.nopOp
  | .lda | .ldx | .ldy | .sta | .stx | .sty => none
  | .ora | .and | .eor | .adc | .sbc | .cmp | .cpx | .cpy | .bit => none
  | .asl | .lsr | .rol | .ror | .inc | .dec => none
  | .pha | .php | .pla | .plp | .jmp | .jsr | .rts | .brk | .rti => none
  | .bpl | .bmi | .bvc | .bvs | .bcc | .bcs | .bne | .beq => none
  | .ill => none

/-- The condition of a branch (R243 to R250). -/
def kindCondition : Kind → Option (Flags → Bool)
  | .bpl => some fun f => !f.n
  | .bmi => some fun f => f.n
  | .bvc => some fun f => !f.v
  | .bvs => some fun f => f.v
  | .bcc => some fun f => !f.c
  | .bcs => some fun f => f.c
  | .bne => some fun f => !f.z
  | .beq => some fun f => f.z
  | .lda | .ldx | .ldy | .sta | .stx | .sty => none
  | .ora | .and | .eor | .adc | .sbc | .cmp | .cpx | .cpy | .bit => none
  | .asl | .lsr | .rol | .ror | .inc | .dec => none
  | .tax | .tay | .txa | .tya | .tsx | .txs => none
  | .pha | .php | .pla | .plp | .inx | .iny | .dex | .dey => none
  | .jmp | .jsr | .rts => none
  | .clc | .sec | .cli | .sei | .clv | .cld | .sed | .nop | .brk | .rti => none
  | .ill => none

/-! ## One row of a template -/

/-- What a cycle of an instruction gives: a row after which more cycles follow, the instruction's last row, or no such row. -/
inductive Cycle
  | more (s : State)
  | last (s : State)
  | noRow

/-- Writes the latches. -/
def State.latch (s : State) (f : Latches → Latches) : State := { s with latches := f s.latches }

/-- `fetch` into `lo` (R141). -/
def State.fetchLo (s : State) : State := s.fetchByte.latch fun l => { l with lo := s.busValue s.pc }

/-- `fetch` into `hi` (R141). -/
def State.fetchHi (s : State) : State := s.fetchByte.latch fun l => { l with hi := s.busValue s.pc }

/-- `fetch` into `zp` (R141). -/
def State.fetchZp (s : State) : State := s.fetchByte.latch fun l => { l with zp := s.busValue s.pc }

/-- `ea <- hi:lo` (R149, R151). -/
def State.latchEa (s : State) : State := s.latch fun l => { l with ea := wordOf l.hi l.lo }

/-- Computes `cross`, `unc`, `ea` from `hi:lo` and the index (R128, R150, R152). -/
def State.latchIndexed (s : State) (idx : Byte) : State :=
  s.latch fun l =>
    { l with
      ea := indexed (wordOf l.hi l.lo) idx
      unc := uncarried (wordOf l.hi l.lo) idx
      cross := indexCrosses l.lo idx }

/-- The operand cycles at the end of a template, counted from 0 (R144). -/
def accessTail (acc : Access) (j : Nat) (s : State) : Cycle :=
  match acc, j with
  | .read op, 0 => .last (op (s.busValue s.latches.ea) (s.readOperand s.latches.ea))
  | .write v, 0 => .last (s.writeOperand s.latches.ea (v s))
  | .modify _, 0 => .more ((s.readOperand s.latches.ea).latch fun l => { l with m := s.busValue s.latches.ea })
  | .modify _, 1 => .more (s.writeOperand s.latches.ea s.latches.m)
  | .modify op, 2 =>
    .last
      { s.writeOperand s.latches.ea (op.value s.flags s.latches.m) with flags := op.flags s.flags s.latches.m }
  | _, _ => .noRow

/-- The cycle after the address is known, for the indexed modes that may cross a page: a read that does not cross goes straight
to its operand; every other access makes the dummy read first (R150, R152). -/
def indexedTail (acc : Access) (s : State) : Cycle :=
  match acc, s.latches.cross with
  | .read _, false => accessTail acc 0 s
  | _, _ => .more (s.dummyRead s.latches.unc)

/-- The cycles after that dummy read (R150, R152). -/
def afterDummy (acc : Access) (j : Nat) (s : State) : Cycle :=
  match acc, s.latches.cross with
  | .read _, false => .noRow
  | _, _ => accessTail acc j s

/-! ## The templates (R145 to R161). Cycle 1 is `fetchCycle` below. -/

/-- `T_ZP` (R147). -/
def cycleZp (acc : Access) (s : State) : Cycle :=
  match s.latches.t with
  | 0 | 1 => .noRow
  | 2 => .more (s.fetchLo.latch fun l => { l with ea := zeroPage l.lo })
  | j + 3 => accessTail acc j s

/-- `ea` and the page-cross report of a zero page index addition (R125, R126); no cycle of `T_ZPI` looks at the report. -/
def State.latchZeroPageIndexed (s : State) (idx : Byte) : State :=
  s.latch fun l => { l with ea := zeroPage (l.lo + idx), cross := indexCrosses l.lo idx }

/-- `T_ZPI` (R148). -/
def cycleZpi (acc : Access) (idx : Byte) (s : State) : Cycle :=
  match s.latches.t with
  | 0 | 1 => .noRow
  | 2 => .more s.fetchLo
  | 3 => .more ((s.dummyRead (zeroPage s.latches.lo)).latchZeroPageIndexed idx)
  | j + 4 => accessTail acc j s

/-- `T_ABS` (R149). -/
def cycleAbs (acc : Access) (s : State) : Cycle :=
  match s.latches.t with
  | 0 | 1 => .noRow
  | 2 => .more s.fetchLo
  | 3 => .more s.fetchHi.latchEa
  | j + 4 => accessTail acc j s

/-- `T_ABI` (R150). -/
def cycleAbi (acc : Access) (idx : Byte) (s : State) : Cycle :=
  match s.latches.t with
  | 0 | 1 => .noRow
  | 2 => .more s.fetchLo
  | 3 => .more (s.fetchHi.latchIndexed idx)
  | 4 => indexedTail acc s
  | j + 5 => afterDummy acc j s

/-- `T_IZX` (R151). -/
def cycleIzx (acc : Access) (s : State) : Cycle :=
  let p := s.latches.zp + s.x
  match s.latches.t with
  | 0 | 1 => .noRow
  | 2 => .more s.fetchZp
  | 3 => .more (s.dummyRead (zeroPage s.latches.zp))
  | 4 => .more ((s.readOperand (zeroPage p)).latch fun l => { l with lo := s.busValue (zeroPage p) })
  | 5 => .more ((s.readOperand (zeroPage (p + 1))).latch fun l => { l with hi := s.busValue (zeroPage (p + 1)) }).latchEa
  | j + 6 => accessTail acc j s

/-- `T_IZY` (R152). -/
def cycleIzy (acc : Access) (s : State) : Cycle :=
  let p := s.latches.zp
  match s.latches.t with
  | 0 | 1 => .noRow
  | 2 => .more s.fetchZp
  | 3 => .more ((s.readOperand (zeroPage p)).latch fun l => { l with lo := s.busValue (zeroPage p) })
  | 4 =>
    .more
      (((s.readOperand (zeroPage (p + 1))).latch fun l => { l with hi := s.busValue (zeroPage (p + 1)) }).latchIndexed s.y)
  | 5 => indexedTail acc s
  | j + 6 => afterDummy acc j s

/-- `T_IMM` (R146): read class only. -/
def cycleImm (acc : Access) (s : State) : Cycle :=
  match acc, s.latches.t with
  | .read op, 2 => .last (op (s.busValue s.pc) s.fetchByte)
  | _, _ => .noRow

/-- `T_IMP` for the Accumulator forms (R145). -/
def cycleAcc (acc : Access) (s : State) : Cycle :=
  match acc, s.latches.t with
  | .modify op, 2 => .last (op.onAccumulator s)
  | _, _ => .noRow

/-- `T_IMP` (R145). -/
def cycleImp (op : State → State) (s : State) : Cycle :=
  match s.latches.t with
  | 2 => .last (op s.internalCycle)
  | _ => .noRow

/-- Cycle 2 of `T_REL`: the offset is fetched and the condition, the target and the page-cross report are known (R153). -/
def State.fetchOffset (s : State) (cond : Bool) : State :=
  s.fetchLo.latch fun l =>
    { l with taken := cond, ea := branchTarget (s.pc + 1) l.lo, cross := branchCrosses (s.pc + 1) l.lo }

/-- `T_REL` (R153). -/
def cycleRel (cond : Flags → Bool) (s : State) : Cycle :=
  match s.latches.t, s.latches.taken, s.latches.cross with
  | 2, _, _ => if cond s.flags then .more (s.fetchOffset true) else .last (s.fetchOffset false)
  | 3, true, false => .last { s.internalCycle with pc := s.latches.ea }
  | 3, true, true => .more s.internalCycle
  | 4, true, true => .last { s.internalCycle with pc := s.latches.ea }
  | _, _, _ => .noRow

/-- `T_JMP_ABS` (R154). -/
def cycleJmpAbs (s : State) : Cycle :=
  match s.latches.t with
  | 2 => .more s.fetchLo
  | 3 => .last { s.readOperand s.pc with pc := wordOf (s.busValue s.pc) s.latches.lo }
  | _ => .noRow

/-- `T_JMP_IND` (R155). -/
def cycleJmpInd (s : State) : Cycle :=
  let ptr := wordOf s.latches.hi s.latches.lo
  match s.latches.t with
  | 2 => .more s.fetchLo
  | 3 => .more s.fetchHi
  | 4 => .more ((s.readOperand ptr).latch fun l => { l with tl := s.busValue ptr })
  | 5 => .last { s.readOperand (samePageNext ptr) with pc := wordOf (s.busValue (samePageNext ptr)) s.latches.tl }
  | _ => .noRow

/-- `T_JSR` (R156). -/
def cycleJsr (s : State) : Cycle :=
  match s.latches.t with
  | 2 => .more s.fetchLo
  | 3 => .more s.internalCycle
  | 4 => .more s.pushPcHigh
  | 5 => .more s.pushPcLow
  | 6 => .last { s.readOperand s.pc with pc := wordOf (s.busValue s.pc) s.latches.lo }
  | _ => .noRow

/-- `T_RTS` (R157). -/
def cycleRts (s : State) : Cycle :=
  match s.latches.t with
  | 2 => .more s.internalCycle
  | 3 => .more s.internalCycle.popSp
  | 4 => .more (s.readStack.popSp.latch fun l => { l with lo := s.stackTop })
  | 5 => .more ({ s.readStack with pc := wordOf s.stackTop s.latches.lo }.latch fun l => { l with hi := s.stackTop })
  | 6 => .last s.internalCycle.advancePc
  | _ => .noRow

/-- `T_RTI` (R158). -/
def cycleRti (s : State) : Cycle :=
  match s.latches.t with
  | 2 => .more s.internalCycle
  | 3 => .more s.internalCycle.popSp
  | 4 => .more (s.readStack.popSp.latch fun l => { l with m := s.stackTop })
  | 5 => .more (s.readStack.popSp.latch fun l => { l with lo := s.stackTop })
  | 6 => .last { s.readStack with pc := wordOf s.stackTop s.latches.lo, flags := pPull s.latches.m }
  | _ => .noRow

/-- `T_PUSH` (R159); `v` is read from the state, which no earlier cycle has changed but for PC. -/
def cyclePush (v : State → Byte) (s : State) : Cycle :=
  match s.latches.t with
  | 2 => .more s.internalCycle
  | 3 => .last (s.push (v s))
  | _ => .noRow

/-- `T_PULL` (R160). -/
def cyclePull (op : Byte → State → State) (s : State) : Cycle :=
  match s.latches.t with
  | 2 => .more s.internalCycle
  | 3 => .more s.internalCycle.popSp
  | 4 => .last (op s.stackTop s.readStack)
  | _ => .noRow

/-- Cycles 3 to 7 of an entry through a vector (R161, R162). -/
def cycleEntry (vector : Word) (s : State) : Cycle :=
  match s.latches.t with
  | 3 => .more s.pushPcHigh
  | 4 => .more s.pushPcLow
  | 5 => .more s.pushStatus
  | 6 => .more ((s.readOperand vector).latch fun l => { l with lo := s.busValue vector })
  | 7 => .last { s.readOperand (vector + 1) with pc := wordOf (s.busValue (vector + 1)) s.latches.lo }
  | _ => .noRow

/-- `T_BRK` (R161). -/
def cycleBrk (s : State) : Cycle :=
  match s.latches.t with
  | 2 => .more s.internalCycle.advancePc
  | _ => cycleEntry irqVector s

/-- `T_INT` (R162). -/
def cycleInt (s : State) : Cycle :=
  match s.latches.t with
  | 1 | 2 => .more s.internalCycle
  | _ => cycleEntry s.latches.vector s

/-- `T_RESET` (R163): SP - 3 on cycle 5, I set on cycle 7. -/
def cycleReset (s : State) : Cycle :=
  match s.latches.t with
  | 1 | 2 | 3 | 4 => .more s.internalCycle
  | 5 => .more { s.internalCycle with sp := s.sp - 3 }
  | 6 => .more ((s.readOperand resetVector).latch fun l => { l with lo := s.busValue resetVector })
  | 7 =>
    .last
      { s.readOperand (resetVector + 1) with
        pc := wordOf (s.busValue (resetVector + 1)) s.latches.lo
        flags := { s.flags with i := true } }
  | _ => .noRow

/-- The template of a mode for the kinds with an access class (R166). -/
def cycleAccess (acc : Access) (m : Mode) (s : State) : Cycle :=
  match m with
  | .imp | .ind | .rel => .noRow
  | .acc => cycleAcc acc s
  | .imm => cycleImm acc s
  | .zp => cycleZp acc s
  | .zpx => cycleZpi acc s.x s
  | .zpy => cycleZpi acc s.y s
  | .abs => cycleAbs acc s
  | .abx => cycleAbi acc s.x s
  | .aby => cycleAbi acc s.y s
  | .izx => cycleIzx acc s
  | .izy => cycleIzy acc s

/-- The templates of the kinds without an access class (R166). -/
def cycleOther (k : Kind) (m : Mode) (s : State) : Cycle :=
  match k with
  | .jmp => if m = .ind then cycleJmpInd s else cycleJmpAbs s
  | .jsr => cycleJsr s
  | .rts => cycleRts s
  | .rti => cycleRti s
  | .brk => cycleBrk s
  | .pha => cyclePush State.a s
  | .php => cyclePush (fun s => pPush s.flags true) s
  | .pla => cyclePull State.loadA s
  | .plp => cyclePull State.pullFlags s
  | k =>
    match kindImpliedOp k, kindCondition k with
    | some op, _ => cycleImp op s
    | none, some cond => cycleRel cond s
    | none, none => .noRow

/-- Cycle t of the template of (kind, mode) (R104, R166). -/
def executeCycle (k : Kind) (m : Mode) (s : State) : Cycle :=
  match kindAccess k with
  | some acc => cycleAccess acc m s
  | none => cycleOther k m s

/-! ## `step_cycle` and `execute_instruction` -/

/-- `t <- t + 1` (R104). -/
def State.nextCycle (s : State) : State := s.latch fun l => { l with t := l.t + 1 }

/-- The outcome of a row: more cycles follow, or `fin` is applied to the last one (R104). -/
def Cycle.outcome (fin : State → State) : Cycle → Host.Outcome State Fault Refusal
  | .more s => .next s.nextCycle
  | .last s => .next (fin s)
  | .noRow => .fault .noSuchCycle

/-- The `FetchOpcode` cycle and Decode (R104, R141): an undefined byte traps with PC not advanced; otherwise the FSM goes to
Execute. `brk_flag` is 1 from here on for BRK (R161). -/
def fetchCycle (s : State) : Host.Outcome State Fault Refusal :=
  let op := s.busValue s.pc
  if (optab op).kind = .ill then illegalOpcode op s.fetchOpcode
  else
    .next
      { s.fetchOpcode.advancePc with
        fsm := .execute
        latches := { Latches.dead with ir := op, t := 2 }
        brkFlag := (optab op).kind == .brk }

/-- `step_cycle()` (R104): one bus cycle. In Trapped no step is performed and nothing changes (R113). -/
def stepCycle (s : State) : Host.Outcome State Fault Refusal :=
  match s.fsm with
  | .trapped => .next s
  | .reset => (cycleReset s).outcome State.endInstruction
  | .interrupt => (cycleInt s).outcome State.endInstruction
  | .fetch => fetchCycle s
  | .execute =>
    (executeCycle (optab s.latches.ir).kind (optab s.latches.ir).mode s).outcome fun s =>
      s.endInstruction.interruptCheck

/-- The FSM is at an instruction boundary (R103). -/
def State.atBoundary (s : State) : Bool :=
  match s.fsm with
  | .fetch => true
  | .trapped => true
  | .reset => s.latches.t == 1
  | .execute => false
  | .interrupt => false

/-- Runs cycles until the next instruction boundary, at most `fuel` of them; no run needs more than 14. -/
def runCycles : Nat → State → Host.Outcome State Fault Refusal
  | 0, _ => .fault .noSuchCycle
  | fuel + 1, s =>
    match stepCycle s with
    | .next s' => if s'.atBoundary then .next s' else runCycles fuel s'
    | .fault r => .fault r
    | .refused r => .refused r

/-- `execute_instruction()` (R105): runs to the next instruction boundary, with the interrupt entry the instruction triggers; at
most 7 cycles of an instruction and 7 of an entry. In Trapped nothing runs. -/
def executeInstruction (s : State) : Host.Outcome State Fault Refusal :=
  match s.fsm with
  | .trapped => .next s
  | .reset => runCycles 14 s
  | .interrupt => runCycles 14 s
  | .fetch => runCycles 14 s
  | .execute => runCycles 14 s

/-- The cycles consumed between two states of a run: what `execute_instruction` returns (R105). -/
def cyclesBetween (s t : State) : Nat := t.trace.length - s.trace.length

end Sys2Proof.Machine
end

