-- ==== Sys2Proof/Machine/Fetch.lean ====
section
/-! DEFINITION. Fetching an instruction at the instruction level (R25, R66, R141): the bytes at PC as the fetch reads them, the
state after the fetch cycles, what follows an instruction, and placing an instruction where the machine fetches. -/

namespace Sys2Proof.Machine

/-- The opcode byte `FetchOpcode` reads (R141). -/
def State.opcodeByte (s : State) : Byte := s.busValue s.pc

/-- The state after the opcode is fetched and PC advanced (R141). -/
def State.afterOpcode (s : State) : State := s.fetchOpcode.advancePc

/-- The first operand byte, as its fetch reads it (R141). -/
def State.operandByte1 (s : State) : Byte := s.afterOpcode.busValue s.afterOpcode.pc

/-- The second operand byte, as its fetch would read it right after the first (R141). -/
def State.operandByte2 (s : State) : Byte := s.afterOpcode.fetchByte.busValue s.afterOpcode.fetchByte.pc

/-- The instruction at PC (R82, R85). -/
def State.nextInstr (s : State) : Instr := decodeBytes s.opcodeByte s.operandByte1 s.operandByte2

/-- The fetch cycles of an instruction (R141): the opcode and the operand bytes its length gives. An undefined byte leaves PC on
itself (R296). JSR fetches its third byte in its own last cycle (R156, log 15). -/
def State.fetchFor (i : Instr) (s : State) : State :=
  match i.kind with
  | .ill => s.fetchOpcode
  | .jsr => s.afterOpcode.fetchByte
  | _ =>
    match i.mode.length with
    | 2 => s.afterOpcode.fetchByte
    | 3 => s.afterOpcode.fetchByte.fetchByte
    | _ => s.afterOpcode

/-- What follows an instruction's own cycles: InterruptCheck and the entry it triggers (R104, R105); none after the trap (R283,
R296). -/
def afterInstruction (r : Host.Outcome State Fault Refusal) : Host.Outcome State Fault Refusal :=
  match r with
  | .next s => .next (if s.fsm = .trapped then s else s.serviceInterrupts)
  | .fault e => .fault e
  | .refused e => .refused e

/-- A mapping set answers from RAM or ROM at an address, so that the device memory is what a read there returns (R53). -/
def memoryBacked (maps : List Mapping) (a : Word) : Bool :=
  match lookup maps a with
  | some .ram => true
  | some .rom => true
  | some (.external _) => false
  | none => false

/-- The reference platform of the test vectors: one RAM over the whole address space (95_test_vectors.md part 0). -/
def ramEverywhere : List Mapping := [{ start := 0x0000, stop := 0xFFFF, device := .ram }]

/-- The mappings kept when the three bytes at PC are memory, else one RAM everywhere (log 17). -/
def mappingsForFetch (maps : List Mapping) (pc : Word) : List Mapping :=
  if memoryBacked maps pc && memoryBacked maps (pc + 1) && memoryBacked maps (pc + 2) then maps else ramEverywhere

/-- Puts an instruction of `nbits` bits where the machine fetches next, its remaining bytes zero, with the FSM in Fetch (log 17). -/
def State.placeInstruction (s : State) (nbits w : Nat) : State :=
  let v := w % 2 ^ nbits
  let mem := s.mem.write s.pc.toNat (BitVec.ofNat 8 v)
  let mem := mem.write (s.pc + 1).toNat (BitVec.ofNat 8 (v / 256))
  let mem := mem.write (s.pc + 2).toNat (BitVec.ofNat 8 (v / 65536))
  { s with mem := mem, mappings := mappingsForFetch s.mappings s.pc, fsm := .fetch }

end Sys2Proof.Machine
end

