-- ==== Sys2Proof/Machine/Step.lean ====
section
/-! DEFINITION. One step of the machine: one instruction with the interrupt entry it triggers, as R103 allows (log 9); from any
state between two boundaries, the cycles that are left. -/

namespace Sys2Proof.Machine

/-- One step (R103 to R105). In Fetch: the instruction at PC runs, then InterruptCheck. In Reset, Interrupt or Execute: the
remaining cycles run to the boundary. In Trapped the machine does nothing until `reset()`, and the run has failed (R113, log 2). -/
def step (s : State) : Host.Outcome State Fault Refusal :=
  match s.fsm with
  | .fetch => afterInstruction (exec s.nextInstr (s.fetchFor s.nextInstr))
  | .reset => executeInstruction s
  | .execute => executeInstruction s
  | .interrupt => executeInstruction s
  | .trapped => .fault .trapped

/-- The state with one instruction placed where the next step fetches: the bytes at PC, memory mapped there, the FSM in Fetch
(log 17). -/
def State.withFetchWord (s : State) (nbits w : Nat) : State := s.placeInstruction nbits w

end Sys2Proof.Machine
end

