-- ==== Sys2Proof/Machine/Surface.lean ====
section
/-! DEFINITION. The host surface (R101): `reset()`, `set_irq`, `trigger_nmi`, `register`, construction with a bus map, the step
descriptor, and the host's operations as data. The register accessors of R40 are the fields of State and `State.p`. -/

namespace Sys2Proof.Machine

/-- `reset()` (R112): the FSM in Reset before cycle 1, pending NMI and `brk_flag` cleared, latches dead; all else stays. -/
def State.hostReset (s : State) : State :=
  { s with fsm := .reset, latches := Latches.dead, nmiPending := false, brkFlag := false }

/-- `set_irq(b)` (R32). -/
def State.setIrq (s : State) (b : Bool) : State := { s with irqLine := b }

/-- `trigger_nmi()` (R32): calls while an edge is pending are absorbed (R284). -/
def State.triggerNmi (s : State) : State := { s with nmiPending := true }

/-- Two inclusive ranges share an address (R54). -/
def rangesMeet (m n : Mapping) : Bool := decide (m.start ≤ n.stop) && decide (n.start ≤ m.stop)

/-- Why a setup call fails. -/
inductive SetupError
  /-- `start > end` (R54, D14). -/
  | invalidRange
  /-- The range meets an existing mapping (R54). -/
  | rangeOverlap
  /-- `register` once stepping has begun (R35, U12). -/
  | steppingHasBegun
  /-- `ILLEGAL_POLICY = Emulate`, which has no rules (R88, R296, U2). -/
  | emulateHasNoRules
deriving DecidableEq, Repr

/-- `register(start, end, device)` on a mapping set (R54): appended, or refused with the set unchanged. -/
def registerMapping (maps : List Mapping) (m : Mapping) : Except SetupError (List Mapping) :=
  if m.stop < m.start then .error .invalidRange
  else if maps.any (rangesMeet m) then .error .rangeOverlap
  else .ok (maps ++ [m])

/-- `register` as a host operation: a setup call, refused once a cycle has run (R35, U12). -/
def State.register (s : State) (m : Mapping) : Except SetupError State :=
  if s.trace.isEmpty then
    match registerMapping s.mappings m with
    | .ok maps => .ok { s with mappings := maps }
    | .error e => .error e
  else .error .steppingHasBegun

/-- Registers the entries of a `BUS_MAP` in order (R8, R54). -/
def registerAll (maps : List Mapping) : List Mapping → Except SetupError (List Mapping)
  | [] => .ok maps
  | m :: rest =>
    match registerMapping maps m with
    | .ok maps => registerAll maps rest
    | .error e => .error e

/-- A system built from its parameters (R8): the policy must be one that has rules (U2), and the bus map must register. -/
def construct (cfg : Config) (p : PowerOn) (busMap : List Mapping) (mem : Memory) : Except SetupError State :=
  match cfg.illegalPolicy with
  | .emulate => .error .emulateHasNoRules
  | .trap =>
    match registerAll [] busMap with
    | .ok maps => .ok (State.powerOn cfg p maps mem)
    | .error e => .error e

/-- The descriptor `step_cycle` returns from a state (R104): that of the cycle it performs, none (`NoStep`) in Trapped. -/
def stepDescriptor (s : State) : Option MicroStep :=
  match s.fsm, stepCycle s with
  | .trapped, _ => none
  | _, .next t => t.trace.head?
  | _, _ => none

/-- What the host may do between two cycles (R100, R101). -/
inductive HostOp
  | reset
  | setIrq (level : Bool)
  | triggerNmi
  | stepCycle
  | executeInstruction
deriving DecidableEq, Repr

/-- A host operation on the machine (R101). -/
def HostOp.run (op : HostOp) (s : State) : Host.Outcome State Fault Refusal :=
  match op with
  | .reset => .next s.hostReset
  | .setIrq b => .next (s.setIrq b)
  | .triggerNmi => .next s.triggerNmi
  | .stepCycle => Sys2Proof.Machine.stepCycle s
  | .executeInstruction => Sys2Proof.Machine.executeInstruction s

/-- A session of the host: its operations in order (R100). -/
def runHost : List HostOp → State → Host.Outcome State Fault Refusal
  | [], s => .next s
  | op :: rest, s =>
    match op.run s with
    | .next t => runHost rest t
    | .fault r => .fault r
    | .refused r => .refused r

/-- The bus transactions made so far, oldest first: what the devices have observed (R62, R63). -/
def State.busLog (s : State) : List BusAccess := s.trace.reverse.filterMap MicroStep.access

end Sys2Proof.Machine
end

