-- ==== Sys2Proof/Safety.lean ====
section
/-! DEFINITION. The terms claims are stated in: the invariant of the machine, what a safe run is and when it is over, what an
instruction's operand is, and the frame of an instruction: what it leaves as it was. -/

namespace Sys2Proof.Machine

/-! ## The invariant -/

/-- Ranges are not reversed and no two of them share an address (R35, R54). -/
def mappingsWf : List Mapping → Bool
  | [] => true
  | m :: rest => decide (m.start ≤ m.stop) && rest.all (fun n => !rangesMeet m n) && mappingsWf rest

/-- The latches of an instruction in flight name a cycle its template has (R104, R142): cycle 2 to the base count, one more on
a page crossing that adds a cycle, and for a branch cycle 3 when taken and cycle 4 when the taken branch crosses. -/
def hasRow (e : Entry) (l : Latches) : Bool :=
  e.kind != .ill &&
    match e.mode with
    | .rel => l.t == 2 || (l.taken && (l.t == 3 || (l.cross && l.t == 4)))
    | .imp | .acc | .imm | .zp | .zpx | .zpy | .abs | .abx | .aby | .ind | .izx | .izy =>
      decide (2 ≤ l.t) && (decide (l.t ≤ e.base) || (e.pcx && l.cross && l.t == e.base + 1))

/-- What holds of the latches in each FSM state (R33, R34, R103). -/
def latchesFit (s : State) : Prop :=
  match s.fsm with
  | .execute => hasRow (optab s.latches.ir) s.latches = true
  | .reset => 1 ≤ s.latches.t ∧ s.latches.t ≤ 7
  | .interrupt => 1 ≤ s.latches.t ∧ s.latches.t ≤ 7 ∧ (s.latches.vector = nmiVector ∨ s.latches.vector = irqVector)
  | .fetch => True
  | .trapped => True

/-- A BRK instruction is in flight (R32). -/
def brkInFlight (s : State) : Bool :=
  match s.fsm with
  | .execute => (optab s.latches.ir).kind == .brk
  | .reset => false
  | .fetch => false
  | .interrupt => false
  | .trapped => false

/-- THE INVARIANT: memory contents in canonical form, mappings disjoint (R35), the latches those of a cycle that exists, and
`brk_flag` 1 exactly while a BRK executes (R32). -/
structure State.Inv (s : State) : Prop where
  memWf : s.mem.wf = true
  mappingsDisjoint : mappingsWf s.mappings = true
  latches : latchesFit s
  brk : s.brkFlag = brkInFlight s

/-! ## Safe runs -/

/-- A run is still good: the core has not trapped (R113, R324). -/
def State.Safe (s : State) : Prop := s.fsm ≠ .trapped

/-- The bytes at PC come from RAM or ROM, so fetching them again gives the same bytes (R53). -/
def State.fetchesFromMemory (s : State) : Bool :=
  memoryBacked s.mappings s.pc && memoryBacked s.mappings (s.pc + 1) && memoryBacked s.mappings (s.pc + 2)

/-- The run is over (R114): at a boundary before a `JMP` to its own address. -/
def State.runOver (s : State) : Prop := s.fsm = .fetch ∧ s.nextInstr = .jmp (.abs s.pc)

/-- No interrupt is accepted at the next InterruptCheck if I stays as it is (R284, R285). -/
def State.quiet (s : State) : Prop := s.nmiPending = false ∧ (s.irqLine = false ∨ s.flags.i = true)

/-! ## Operands, as the meanings compute them -/

/-- The operand byte of a read-class instruction (R144): the immediate byte, or the byte read at the effective address. -/
def operandByte (o : Operand) (s : State) : Byte :=
  match o with
  | .imm b => b
  | o =>
    match resolve o s with
    | some r => r.value
    | none => 0

/-- The address an instruction with this operand reads or writes (R120). -/
def operandAddress (o : Operand) (s : State) : Option Word := (resolve o s).map Resolution.ea

/-- The old value a read-modify-write instruction reads (R144). -/
def oldByte (o : Operand) (s : State) : Byte :=
  match resolve o s with
  | some r => r.beforeWrite.busValue r.ea
  | none => 0

/-- The page-cross report of an operand (R120, R133). -/
def operandCrosses (o : Operand) (s : State) : Bool :=
  match resolve o s with
  | some r => r.cross
  | none => false

/-- The operand form of an instruction that has one. -/
def instrOperand? : Instr → Option Operand
  | .lda o | .ldx o | .ldy o | .sta o | .stx o | .sty o => some o
  | .ora o | .and o | .eor o | .adc o | .sbc o | .cmp o | .cpx o | .cpy o | .bit o => some o
  | .asl o | .lsr o | .rol o | .ror o | .inc o | .dec o => some o
  | .jmp o => some o
  | .jsr _ => none
  | .bpl _ | .bmi _ | .bvc _ | .bvs _ | .bcc _ | .bcs _ | .bne _ | .beq _ => none
  | .tax | .tay | .txa | .tya | .tsx | .txs | .pha | .php | .pla | .plp => none
  | .inx | .iny | .dex | .dey | .rts => none
  | .clc | .sec | .cli | .sei | .clv | .cld | .sed | .nop | .brk | .rti => none
  | .ill _ => none

/-- The offset byte of a branch. -/
def instrOffset? : Instr → Option Byte
  | .bpl b | .bmi b | .bvc b | .bvs b | .bcc b | .bcs b | .bne b | .beq b => some b
  | .lda _ | .ldx _ | .ldy _ | .sta _ | .stx _ | .sty _ => none
  | .ora _ | .and _ | .eor _ | .adc _ | .sbc _ | .cmp _ | .cpx _ | .cpy _ | .bit _ => none
  | .asl _ | .lsr _ | .rol _ | .ror _ | .inc _ | .dec _ => none
  | .jmp _ | .jsr _ => none
  | .tax | .tay | .txa | .tya | .tsx | .txs | .pha | .php | .pla | .plp => none
  | .inx | .iny | .dex | .dey | .rts => none
  | .clc | .sec | .cli | .sei | .clv | .cld | .sed | .nop | .brk | .rti => none
  | .ill _ => none

/-- The page-cross report of an instruction (R133), in the state after its bytes are fetched. -/
def instrCrosses (i : Instr) (s : State) : Bool :=
  match instrOffset? i, instrOperand? i with
  | some off, _ => branchCrosses s.pc off
  | none, some o => operandCrosses o s
  | none, none => false

/-- The condition of a branch holds (R243 to R251); false for every other instruction. -/
def instrTaken (i : Instr) (s : State) : Bool :=
  match kindCondition i.kind with
  | some cond => cond s.flags
  | none => false

/-! ## Frames -/

/-- The register file and the stored flags (R20, R26). -/
structure Registers where
  a : Byte
  x : Byte
  y : Byte
  sp : Byte
  pc : Word
  flags : Flags
deriving DecidableEq, Repr

/-- The register file and the flags of a state. -/
def State.registers (s : State) : Registers where
  a := s.a
  x := s.x
  y := s.y
  sp := s.sp
  pc := s.pc
  flags := s.flags

/-- What an instruction leaves as it was beside registers and memory, and where it leaves the sequencer: the interrupt lines,
the mappings, the parameters and the signals are unchanged, the FSM is at a boundary, and the two logs have only grown. -/
structure State.SameSystem (s t : State) : Prop where
  irqLine : t.irqLine = s.irqLine
  nmiPending : t.nmiPending = s.nmiPending
  mappings : t.mappings = s.mappings
  cfg : t.cfg = s.cfg
  signals : t.signals = s.signals
  fsm : t.fsm = .fetch
  latches : t.latches = Latches.dead
  brkFlag : t.brkFlag = false
  trace : s.trace <:+ t.trace
  diagnostics : s.diagnostics <:+ t.diagnostics

/-- Every byte of memory reads as before. -/
def sameMemory (s t : State) : Prop := ∀ x : Nat, t.mem.read x = s.mem.read x

/-- An instruction that stores nothing completes: it answers a next state with these registers, all else as it was. -/
def Completes (i : Instr) (s : State) (r : Registers) : Prop :=
  ∃ t, exec i s = .next t ∧ t.registers = r ∧ s.SameSystem t ∧ sameMemory s t

/-- After a store of `v` to `ea`, a RAM there holds v and anything else is as it was (R53, R57). -/
def holds (s t : State) (ea : Word) (v : Byte) : Prop :=
  t.mem.read ea.toNat = if s.deviceAt ea = some .ram then v else s.mem.read ea.toNat

/-- The effect of storing `v` at `ea` (R53, R57): a RAM there holds v, and every other byte reads as before. -/
def storesByte (s t : State) (ea : Word) (v : Byte) : Prop :=
  holds s t ea v ∧ ∀ x : Nat, x ≠ ea.toNat → t.mem.read x = s.mem.read x

/-- An instruction that stores one byte completes: it answers a next state with these registers, the byte `v` written to `ea`
as its last bus access, all else as it was. -/
def CompletesStoring (i : Instr) (s : State) (r : Registers) (ea : Word) (v : Byte) : Prop :=
  ∃ t, exec i s = .next t ∧ t.registers = r ∧ s.SameSystem t ∧ storesByte s t ea v ∧
    t.trace.head? = some (.writeOperand ea v)

/-- The flags with N and Z of a value, the other flags as they were: `setNZ` written out (R11). -/
def withNZ (f : Flags) (v : Byte) : Flags := { f with n := decide (128 ≤ v.toNat), z := decide (v = 0) }

/-- What a read at `a` may give when the devices hold `mem` (R53, R56, R325): the byte held where RAM or ROM answers, `OPEN_BUS` at
an unmapped address; an external device answers what it will. -/
def State.ReadsAs (s : State) (mem : Memory) (a : Word) (v : Byte) : Prop :=
  (memoryBacked s.mappings a = true → v = mem.read a.toNat) ∧ (lookup s.mappings a = none → v = s.cfg.openBus)

/-- Taking an interrupt or BRK, as a bus log and its effect (R161, R162, R288): after `lead` internal cycles PC high, PC low and
the status byte are pushed and the vector is read, low byte first; SP is 3 less, I is set, PC is the vector's word, and no other
register or flag changes. The three stack bytes that are RAM hold what was pushed; every other byte of memory reads as before. -/
def TakesVector (s t : State) (lead : Nat) (ret : Word) (status : Byte) (vector : Word) : Prop :=
  ∃ lo hi,
    t.registers = { s.registers with sp := s.sp - 3, flags := { s.flags with i := true }, pc := wordOf hi lo } ∧
    t.trace =
      [.readOperand (vector + 1) hi, .readOperand vector lo, .writeOperand (stackAddress (s.sp - 2)) status,
        .writeOperand (stackAddress (s.sp - 1)) (lowByte ret), .writeOperand (stackAddress s.sp) (highByte ret)] ++
        (List.replicate lead .internalCycle ++ s.trace) ∧
    s.ReadsAs s.mem vector lo ∧ s.ReadsAs s.mem (vector + 1) hi ∧
    holds s t (stackAddress s.sp) (highByte ret) ∧
    holds s t (stackAddress (s.sp - 1)) (lowByte ret) ∧
    holds s t (stackAddress (s.sp - 2)) status ∧
    ∀ x : Nat, x ≠ (stackAddress s.sp).toNat → x ≠ (stackAddress (s.sp - 1)).toNat → x ≠ (stackAddress (s.sp - 2)).toNat →
      t.mem.read x = s.mem.read x

/-- A byte of two decimal digits (R211). -/
def validBcd (b : Byte) : Prop := lowNibble b ≤ 9 ∧ highNibble b ≤ 9

/-- The number a byte of two decimal digits stands for, `dec(b)` (R211). -/
def bcdValue (b : Byte) : Nat := 10 * highNibble b + lowNibble b

end Sys2Proof.Machine
end

