-- ==== Sys2Proof/Certificates/Slice0/Obligations.lean ====
section
/-! DEFINITION. The statements for the provers. Each says what a rule of the spec says the machine does; frames are written
with the terms of Safety.lean. -/

section

open Sys2Proof Sys2Proof.Machine

/-! ## Encoding -/

/-- Decoding the bytes of an instruction of the set gives it back with what follows it, and there are as many bytes as its mode
has (R80, R81, R82). -/
def Obligations.DecodeOfEncodeIsTheInstruction : Prop :=
  ∀ (i : Instr) (rest : List Byte), i.WellFormed →
    decode (encode i ++ rest) = .ok (i, rest) ∧ (encode i).length = i.mode.length

/-- Whatever the decoder reads is an instruction of the set, and its bytes are the ones in front (R85, R89). -/
def Obligations.DecodedInstructionIsInTheSet : Prop :=
  ∀ (bytes : List Byte) (i : Instr) (rest : List Byte), decode bytes = .ok (i, rest) →
    i.WellFormed ∧ bytes = encode i ++ rest

/-- Decoding is total: three bytes always hold an instruction, its kind, mode and length are given by the opcode byte alone, and
no operand byte is reserved (R82, R85, R89). -/
def Obligations.EveryByteDecodes : Prop :=
  ∀ (b0 b1 b2 : Byte) (rest : List Byte),
    ∃ i, decode (b0 :: b1 :: b2 :: rest) = .ok (i, (b1 :: b2 :: rest).drop ((optab b0).mode.length - 1)) ∧
      i.kind = (optab b0).kind ∧ i.mode = (optab b0).mode

/-- The 105 undefined bytes have the entry (ILL, IMP, 1, 0), every other byte is the opcode of its kind and mode in the table by
mnemonic, and `pcx` is 1 for exactly the 23 opcodes of R87 (R85, R86, R87, R88). -/
def Obligations.OpcodeTableIsTotal : Prop :=
  undefinedOpcodes.length = 105 ∧
  (∀ op : Byte, undefinedOpcodes.contains op = true → optab op = ⟨.ill, .imp, 1, false⟩) ∧
  (∀ op : Byte, undefinedOpcodes.contains op = false → ((optab op).mode, op) ∈ (optab op).kind.opcodes) ∧
  ∀ op : Byte, (optab op).pcx = true ↔
    op ∈ ([0xBD, 0xB9, 0xB1, 0xBE, 0xBC, 0x1D, 0x19, 0x11, 0x3D, 0x39, 0x31, 0x5D, 0x59, 0x51, 0x7D, 0x79, 0x71, 0xFD, 0xF9,
      0xF1, 0xDD, 0xD9, 0xD1] : List Byte)

/-- Words written out from the encodings of R81 and R86 decode to their instructions, one of each family. -/
def Obligations.WordsOfTheSpecDecode : Prop :=
  decodeTableWord 16 0x80A9 = some (.lda (.imm 0x80)) ∧
  decodeTableWord 16 0x10B6 = some (.ldx (.zpy 0x10)) ∧
  decodeTableWord 24 0x02009D = some (.sta (.abx 0x0200)) ∧
  decodeTableWord 8 0x9A = some .txs ∧
  decodeTableWord 8 0x08 = some .php ∧
  decodeTableWord 16 0x8671 = some (.adc (.izy 0x86)) ∧
  decodeTableWord 16 0x2041 = some (.eor (.izx 0x20)) ∧
  decodeTableWord 24 0x12342C = some (.bit (.abs 0x1234)) ∧
  decodeTableWord 8 0x0A = some (.asl .acc) ∧
  decodeTableWord 24 0x0300FE = some (.inc (.abx 0x0300)) ∧
  decodeTableWord 8 0x88 = some .dey ∧
  decodeTableWord 24 0x02FF6C = some (.jmp (.ind 0x02FF)) ∧
  decodeTableWord 24 0x030020 = some (.jsr 0x0300) ∧
  decodeTableWord 16 0xF9D0 = some (.bne 0xF9) ∧
  decodeTableWord 8 0x58 = some .cli ∧
  decodeTableWord 8 0x00 = some .brk ∧
  decodeTableWord 8 0x40 = some .rti ∧
  decodeTableWord 8 0xFF = some (.ill 0xFF)

/-! ## Fetch and step -/

/-- When the bytes at PC, as the fetch reads them, decode to an instruction, the step runs that instruction from the state after
its fetch cycles, then InterruptCheck and the entry it triggers; after a trap no InterruptCheck is made (R103, R104, R105). -/
def Obligations.StepRunsTheDecodedInstruction : Prop :=
  ∀ (s : State) (i : Instr) (rest : List Byte), s.fsm = .fetch →
    decode [s.opcodeByte, s.operandByte1, s.operandByte2] = .ok (i, rest) →
    i.WellFormed ∧
    step s =
      match exec i (s.fetchFor i) with
      | .next t => .next (if t.fsm = .trapped then t else t.serviceInterrupts)
      | .fault r => .fault r
      | .refused r => .refused r

/-- The fetch cycles read one byte at PC and the bytes after it, and advance PC past the instruction; an undefined byte leaves PC
on itself, and JSR's third byte is read in its own last cycle (R25, R141, R156, R296). Nothing else changes but the logs. -/
def Obligations.FetchAdvancesPcPastTheInstruction : Prop :=
  ∀ (s : State) (i : Instr), i.WellFormed →
    ∃ tr dg, s.fetchFor i =
        { s with
          pc := s.pc + BitVec.ofNat 16 (if i.kind = .ill then 0 else if i.kind = .jsr then 2 else i.mode.length)
          trace := tr ++ s.trace
          diagnostics := dg ++ s.diagnostics } ∧
      tr =
        (match (if i.kind = .jsr then 2 else i.mode.length) with
          | 1 => []
          | 2 => [.readOperand (s.pc + 1) s.operandByte1]
          | _ => [.readOperand (s.pc + 2) s.operandByte2, .readOperand (s.pc + 1) s.operandByte1]) ++
          [.fetchOpcode s.pc s.opcodeByte]

/-- An instruction whose bytes stand in RAM or ROM at PC is the one the next step runs, whatever was stored there last and
wherever PC is, the wrap at 0xFFFF included (R25, R66; the wrap is the spec's decision D16). -/
def Obligations.InstructionInMemoryIsTheOneThatRuns : Prop :=
  ∀ (s : State) (i : Instr), s.fsm = .fetch → i.WellFormed →
    (∀ k (h : k < (encode i).length),
      memoryBacked s.mappings (s.pc + BitVec.ofNat 16 k) = true ∧
        s.mem.read (s.pc + BitVec.ofNat 16 k).toNat = (encode i)[k]) →
    s.nextInstr = i ∧ step s = afterInstruction (exec i (s.fetchFor i))

/-- HEADLINE. The instruction-level step and the bus-cycle machine agree: from a fetch boundary one step leaves exactly the state
that running cycles to the next boundary leaves, the ordered list of bus transactions included (R3, R103, R105). -/
def Obligations.StepAgreesWithTheCycleMachine : Prop :=
  ∀ s : State, s.fsm = .fetch → step s = executeInstruction s

/-- The cycle-count contract (R142): an instruction takes its base count, one more on a page crossing when its opcode has the
flag, and for a branch one more when taken and one more when the taken branch crosses a page. -/
def Obligations.CycleCountContract : Prop :=
  ∀ (s : State), s.fsm = .fetch → (optab s.opcodeByte).kind ≠ .ill →
    ∃ t, exec s.nextInstr (s.fetchFor s.nextInstr) = .next t ∧
      t.trace.length = s.trace.length +
        (optab s.opcodeByte).cycles (instrCrosses s.nextInstr (s.fetchFor s.nextInstr))
          (instrTaken s.nextInstr (s.fetchFor s.nextInstr))

/-- No documented instruction traps or stops: from a fetch boundary at any byte of the 151 the step ends at a fetch boundary,
with no signal delivered, whatever registers, memory, mappings and interrupt requests are (R89, R295). -/
def Obligations.DocumentedInstructionsNeverTrap : Prop :=
  ∀ s : State, s.fsm = .fetch → undefinedOpcodes.contains s.opcodeByte = false →
    ∃ t, step s = .next t ∧ t.fsm = .fetch ∧ t.signals = s.signals

/-- HEADLINE. Every step keeps the invariant: canonical memory, disjoint mappings, latches of a cycle that exists, `brk_flag` 1
only while a BRK is in flight (R32, R35, R103). -/
def Obligations.StepKeepsTheInvariant : Prop :=
  ∀ s t : State, s.Inv → step s = .next t → t.Inv

/-- The machine after construction meets the invariant. It has the register values the model chose (log 4). -/
def Obligations.ResetStateMeetsTheInvariant : Prop :=
  State.reset.Inv ∧ State.reset.fsm = .reset ∧ State.reset.latches.t = 1

/-- HEADLINE. The core never fails: under the Trap policy every session of host operations, single cycles and whole
instructions in any order, runs from any state that meets the invariant and ends in one that does (R104, R112, R113). -/
def Obligations.HostSessionsNeverFail : Prop :=
  ∀ (ops : List HostOp) (s : State), s.Inv → s.cfg.illegalPolicy = .trap →
    ∃ t, runHost ops s = .next t ∧ t.Inv

/-- What no step changes: the parameters, the mappings, and every byte that is not in RAM (R8, R35, R53). -/
def Obligations.StepsNeverChangeMappingsParametersOrRom : Prop :=
  ∀ s t : State, s.mem.wf = true → step s = .next t →
    t.cfg = s.cfg ∧ t.mappings = s.mappings ∧
      ∀ a : Word, s.deviceAt a ≠ some .ram → t.mem.read a.toNat = s.mem.read a.toNat

/-- The end-of-run convention (R114): a `JMP` to its own address in memory, with no interrupt to take, is a run that is over and
stays so, registers and memory as they are. The convention is the spec's decision D26. -/
def Obligations.JumpToItselfEndsTheRun : Prop :=
  ∀ s : State, s.runOver → s.fetchesFromMemory = true → s.quiet →
    ∃ t, step s = .next t ∧ t.runOver ∧ t.fetchesFromMemory = true ∧ t.quiet ∧ t.registers = s.registers ∧ sameMemory s t

/-! ## Reset, traps and interrupts -/

/-- The reset sequence (R163, R311): from the state after `reset()` or construction one step runs seven cycles, five of them
internal; SP is 3 less, I is set, PC is the vector's word (the bytes RAM or ROM holds there, `OPEN_BUS` where nothing is mapped:
R56, R325), and no other register, no flag, no memory byte and no line changes. The spec's decisions D6, D7, D10. -/
def Obligations.ResetSequence : Prop :=
  ∀ s : State, s.fsm = .reset → s.latches.t = 1 →
    ∃ lo hi t, step s = .next t ∧ t.fsm = .fetch ∧
      t.registers = { s.registers with sp := s.sp - 3, pc := wordOf hi lo, flags := { s.flags with i := true } } ∧
      t.trace = [.readOperand 0xFFFD hi, .readOperand 0xFFFC lo] ++ (List.replicate 5 .internalCycle ++ s.trace) ∧
      s.ReadsAs s.mem 0xFFFC lo ∧ s.ReadsAs s.mem 0xFFFD hi ∧
      t.mem = s.mem ∧ t.mappings = s.mappings ∧ t.cfg = s.cfg ∧ t.signals = s.signals ∧
      t.irqLine = s.irqLine ∧ t.nmiPending = s.nmiPending ∧ t.brkFlag = false ∧ s.diagnostics <:+ t.diagnostics

/-- `reset()` (R112, R310): at any cycle of any instruction, and out of Trapped, it enters the reset sequence before its first
cycle, clears a pending NMI and `brk_flag`, and leaves all else as it is. The spec's decision D10. -/
def Obligations.HostResetEntersTheResetState : Prop :=
  ∀ s : State, s.hostReset.fsm = .reset ∧ s.hostReset.latches.t = 1 ∧ s.hostReset.nmiPending = false ∧
    s.hostReset.brkFlag = false ∧ s.hostReset.registers = s.registers ∧ s.hostReset.mem = s.mem ∧
    s.hostReset.irqLine = s.irqLine ∧ s.hostReset.mappings = s.mappings ∧ s.hostReset.diagnostics = s.diagnostics ∧
    s.hostReset.trace = s.trace ∧ s.hostReset.signals = s.signals ∧ s.hostReset.cfg = s.cfg

/-- An undefined byte under the Trap policy (R88, R296): the fetch cycle is performed, the FSM goes to Trapped, the signal with the
byte and its address is delivered, PC stays on the byte, no interrupt is taken, and nothing else changes. The instruction `ill` of
the model completes by that trap, its own effect (log 2; the spec's decision D2). -/
def Obligations.UndefinedByteTraps : Prop :=
  (∀ s : State, s.fsm = .fetch → undefinedOpcodes.contains s.opcodeByte = true → s.cfg.illegalPolicy = .trap →
    step s = .next
      { s with
        fsm := .trapped
        latches := Latches.dead
        signals := ⟨s.opcodeByte, s.pc⟩ :: s.signals
        trace := .fetchOpcode s.pc s.opcodeByte :: s.trace
        diagnostics := if s.deviceAt s.pc = none then .read s.pc :: s.diagnostics else s.diagnostics }) ∧
  ∀ (op : Byte) (s : State), undefinedOpcodes.contains op = true → s.cfg.illegalPolicy = .trap →
    exec (.ill op) s =
      .next { s with fsm := .trapped, latches := Latches.dead, signals := ⟨op, s.pc⟩ :: s.signals }

/-- Under the Emulate policy, which has no rules, an undefined byte is refused by name and so is the setting itself at
construction (R88, R296; log 3). -/
def Obligations.EmulateIsRefused : Prop :=
  (∀ s : State, s.fsm = .fetch → undefinedOpcodes.contains s.opcodeByte = true → s.cfg.illegalPolicy = .emulate →
    step s = .refused (.emulatePolicy s.opcodeByte)) ∧
  ∀ (cfg : Config) (p : PowerOn) (maps : List Mapping) (m : Memory), cfg.illegalPolicy = .emulate →
    construct cfg p maps m = .error .emulateHasNoRules

/-- Trapped (R113): a cycle or an instruction call performs nothing and returns no descriptor, the interrupt operations only
update their flags, only `reset()` leaves the state, and a run that goes on there has failed (log 2; the spec's decision D2). -/
def Obligations.TrappedIsLeftOnlyByReset : Prop :=
  ∀ s : State, s.fsm = .trapped →
    stepCycle s = .next s ∧ executeInstruction s = .next s ∧ stepDescriptor s = none ∧ step s = .fault .trapped ∧
    (∀ b, s.setIrq b = { s with irqLine := b }) ∧ s.triggerNmi = { s with nmiPending := true } ∧
    ∀ op t, op ≠ HostOp.reset → op.run s = .next t → t.fsm = .trapped

/-- InterruptCheck (R284, R285, R287): a pending NMI is accepted whatever I and the IRQ line are, its flag cleared at that moment;
otherwise an IRQ request is accepted exactly when I is 0, and the line is left as it is; otherwise nothing
happens. The spec's decisions D9, D24, D25. -/
def Obligations.InterruptCheckPriorityAndMasking : Prop :=
  ∀ s : State,
    (s.nmiPending = true → s.interruptCheck.fsm = .interrupt ∧ s.interruptCheck.latches.vector = 0xFFFA ∧
      s.interruptCheck.nmiPending = false) ∧
    (s.nmiPending = false → s.irqLine = true → s.flags.i = false →
      s.interruptCheck.fsm = .interrupt ∧ s.interruptCheck.latches.vector = 0xFFFE ∧ s.interruptCheck.nmiPending = false) ∧
    (s.nmiPending = false → (s.irqLine = false ∨ s.flags.i = true) → s.interruptCheck = s) ∧
    s.interruptCheck.irqLine = s.irqLine ∧ s.interruptCheck.registers = s.registers ∧ s.interruptCheck.mem = s.mem

/-- The entry of an accepted interrupt after an instruction (R162, R284, R285, R288): seven cycles, two of them internal, the
status pushed with B = 0 and the old I; an NMI goes through 0xFFFA and its flag is cleared, an IRQ through 0xFFFE and its line
stays up. An unmapped vector byte is `OPEN_BUS` and a push to an unmapped stack is lost (R325). -/
def Obligations.InterruptEntry : Prop :=
  ∀ s : State, s.mem.wf = true → s.brkFlag = false →
    (s.nmiPending = true →
      TakesVector s s.serviceInterrupts 2 s.pc (pPush s.flags false) 0xFFFA ∧
      State.SameSystem { s with nmiPending := false } s.serviceInterrupts) ∧
    (s.nmiPending = false → s.irqLine = true → s.flags.i = false →
      TakesVector s s.serviceInterrupts 2 s.pc (pPush s.flags false) 0xFFFE ∧ s.SameSystem s.serviceInterrupts)

/-- Requests are sampled only at InterruptCheck (R32, R283): a cycle after which there is none gives the same next state, but for
the request itself, whichever request was made before it. Those are the fetch cycle, every cycle of an instruction but its last,
every cycle of the interrupt entry and of the reset sequence with their last ones, and Trapped. The spec's decision D12. -/
def Obligations.RequestsAreSampledOnlyAtInterruptCheck : Prop :=
  ∀ (s t : State) (b n : Bool), stepCycle s = .next t → (s.fsm ≠ .execute ∨ t.fsm = .execute) →
    stepCycle { s with irqLine := b, nmiPending := n } = .next { t with irqLine := b, nmiPending := n }

/-! ## Status byte and stack -/

/-- The status byte: each bit of the pushed copy `P_push(b)` (R30); pulling what was pushed restores the flags whatever B was, and
bits 5 and 4 of a pulled byte are lost (R29, R31); the accessor shows bit 5 as 1 and B as 0 (R28, R29). -/
def Obligations.StatusByte : Prop :=
  (∀ (f : Flags) (b : Bool),
    (pPush f b).getLsbD 7 = f.n ∧ (pPush f b).getLsbD 6 = f.v ∧ (pPush f b).getLsbD 5 = true ∧ (pPush f b).getLsbD 4 = b ∧
    (pPush f b).getLsbD 3 = f.d ∧ (pPush f b).getLsbD 2 = f.i ∧ (pPush f b).getLsbD 1 = f.z ∧
    (pPush f b).getLsbD 0 = f.c) ∧
  (∀ (f : Flags) (b : Bool), pPull (pPush f b) = f) ∧
  (∀ (m : Byte) (b : Bool), pPush (pPull m) b = (m &&& 0xCF) ||| 0x20 ||| (if b then 0x10 else 0)) ∧
  ∀ s : State, s.p.getLsbD 5 = true ∧ s.p.getLsbD 4 = false ∧ pPull s.p = s.flags

/-- The stack discipline (R24): a push writes at 0x0100 + SP and then decrements SP modulo 256, a pull increments SP first; the
address never leaves page 1. -/
def Obligations.StackStaysInPageOne : Prop :=
  ∀ (s : State) (v : Byte),
    stackAddress s.sp = 0x0100 + s.sp.zeroExtend 16 ∧ highByte (stackAddress s.sp) = 0x01 ∧
    (s.push v).trace = .writeOperand (stackAddress s.sp) v :: s.trace ∧
    (s.push v).sp.toNat = (s.sp.toNat + 255) % 256 ∧ s.popSp.sp.toNat = (s.sp.toNat + 1) % 256 ∧
    s.popSp.stackTop = s.popSp.busValue (0x0100 + (s.sp + 1).zeroExtend 16)

/-! ## Memory and bus -/

/-- Memory contents (R53): a byte written is read back, every other byte reads as before, and the canonical form is kept; canonical
contents that read alike at every address of the space are equal data. -/
def Obligations.MemoryContents : Prop :=
  (∀ (m : Memory) (a : Word) (v : Byte), m.wf = true →
    (m.write a.toNat v).wf = true ∧ ∀ x : Nat, (m.write a.toNat v).read x = if x = a.toNat then v else m.read x) ∧
  ∀ m n : Memory, m.wf = true → n.wf = true → (∀ a : Word, m.read a.toNat = n.read a.toNat) → m = n

/-- Ranges are disjoint, so a mapped address has one mapping, and the order of the mappings never affects a result (R55). -/
def Obligations.LookupIsUniqueAndOrderFree : Prop :=
  ∀ maps : List Mapping, mappingsWf maps = true →
    (∀ m ∈ maps, ∀ a : Word, covers m a = true → lookup maps a = some m.device) ∧
    ∀ maps' : List Mapping, maps.Perm maps' → ∀ a : Word, lookup maps' a = lookup maps a

/-- `register` (R54): a reversed range is refused, an intersecting one is refused, any other is appended; the mappings stay
disjoint. The name of the first refusal is the spec's decision D14. -/
def Obligations.RegisterRefusesOverlaps : Prop :=
  ∀ (maps : List Mapping) (m : Mapping), mappingsWf maps = true →
    (m.stop < m.start → registerMapping maps m = .error .invalidRange) ∧
    (m.start ≤ m.stop → (∃ n ∈ maps, ∃ a : Word, covers m a = true ∧ covers n a = true) →
      registerMapping maps m = .error .rangeOverlap) ∧
    (m.start ≤ m.stop → (∀ n ∈ maps, ∀ a : Word, covers m a = true → covers n a = false) →
      registerMapping maps m = .ok (maps ++ [m]) ∧ mappingsWf (maps ++ [m]) = true)

/-- Bus accesses (R53, R56, R57): an unmapped address reads `OPEN_BUS`, RAM and ROM read what they hold, and a read changes no
memory; a write stores in RAM, is lost in ROM and at an unmapped address, and changes no other byte. -/
def Obligations.BusAccesses : Prop :=
  ∀ (s : State) (a : Word) (v : Byte), s.mem.wf = true →
    (lookup s.mappings a = none → s.busValue a = s.cfg.openBus) ∧
    (lookup s.mappings a = some .ram → s.busValue a = s.mem.read a.toNat) ∧
    (lookup s.mappings a = some .rom → s.busValue a = s.mem.read a.toNat) ∧
    (s.readOperand a).trace = .readOperand a (s.busValue a) :: s.trace ∧ (s.readOperand a).mem = s.mem ∧
    (lookup s.mappings a = some .ram → (s.writeOperand a v).mem.read a.toNat = v) ∧
    (lookup s.mappings a ≠ some .ram → (s.writeOperand a v).mem = s.mem) ∧
    (∀ x : Nat, x ≠ a.toNat → (s.writeOperand a v).mem.read x = s.mem.read x) ∧
    (s.writeOperand a v).trace = .writeOperand a v :: s.trace

/-- Diagnostics (R58): exactly one event for each access to an unmapped address, with its kind, address and value; none for an
access to a mapped one and none for an internal cycle. An event's content is the spec's decision D15. -/
def Obligations.OneDiagnosticPerUnmappedAccess : Prop :=
  ∀ (s : State) (a : Word) (v : Byte),
    (lookup s.mappings a = none →
      (s.readOperand a).diagnostics = .read a :: s.diagnostics ∧
      (s.dummyRead a).diagnostics = .read a :: s.diagnostics ∧
      (s.writeOperand a v).diagnostics = .write a v :: s.diagnostics) ∧
    (lookup s.mappings a ≠ none →
      (s.readOperand a).diagnostics = s.diagnostics ∧ (s.dummyRead a).diagnostics = s.diagnostics ∧
      (s.writeOperand a v).diagnostics = s.diagnostics) ∧
    (lookup s.mappings s.pc = none → s.fetchOpcode.diagnostics = .read s.pc :: s.diagnostics) ∧
    (lookup s.mappings s.pc ≠ none → s.fetchOpcode.diagnostics = s.diagnostics) ∧
    s.internalCycle.diagnostics = s.diagnostics

/-! ## Addressing modes -/

/-- Effective addresses of the direct, indexed and relative modes (R120, R124 to R128, R132): zero-page sums wrap in page 0, absolute sums
wrap in the space, and the page-cross report is the carry out of the low byte, with the un-carried address 0x100 below when it
crosses; the zero-page report is that carry too, and the address stays in page 0 all the same; a branch target is PC plus the
signed offset modulo 65536, and its report compares high bytes. -/
def Obligations.EffectiveAddresses : Prop :=
  ∀ (s : State) (b : Byte) (w : Word),
    ((branchTarget w b).toNat : Int) = ((w.toNat : Int) + b.toInt) % 65536 ∧
    (branchCrosses w b = true ↔ (branchTarget w b).toNat / 256 ≠ w.toNat / 256) ∧
    operandAddress (.zp b) s = some (b.zeroExtend 16) ∧
    operandAddress (.zpx b) s = some (BitVec.ofNat 16 ((b.toNat + s.x.toNat) % 256)) ∧
    operandAddress (.zpy b) s = some (BitVec.ofNat 16 ((b.toNat + s.y.toNat) % 256)) ∧
    operandAddress (.abs w) s = some w ∧
    operandAddress (.abx w) s = some (BitVec.ofNat 16 ((w.toNat + s.x.toNat) % 65536)) ∧
    operandAddress (.aby w) s = some (BitVec.ofNat 16 ((w.toNat + s.y.toNat) % 65536)) ∧
    (operandCrosses (.zpx b) s = true ↔ 255 < b.toNat + s.x.toNat) ∧
    (operandCrosses (.zpy b) s = true ↔ 255 < b.toNat + s.y.toNat) ∧
    (operandCrosses (.abx w) s = true ↔ 255 < w.toNat % 256 + s.x.toNat) ∧
    (operandCrosses (.aby w) s = true ↔ 255 < w.toNat % 256 + s.y.toNat) ∧
    indexed w s.x = uncarried w s.x + (if indexCrosses (lowByte w) s.x then 0x0100 else 0) ∧
    indexed w s.y = uncarried w s.y + (if indexCrosses (lowByte w) s.y then 0x0100 else 0)

/-- Effective addresses through a pointer in page 0 (R60, R130, R131): both pointer bytes come from page 0, low byte first, the
second address wrapping; each is the byte RAM or ROM holds there, `OPEN_BUS` where page 0 is unmapped (R56). (Indirect,X) adds X to
the pointer's place and never reports a crossing; (Indirect),Y adds Y to the pointer and reports it. -/
def Obligations.EffectiveAddressesThroughPageZero : Prop :=
  ∀ (s : State) (b : Byte),
    let points (p : Nat) (lo hi : Byte) : Prop :=
      s.ReadsAs s.mem (BitVec.ofNat 16 (p % 256)) lo ∧ s.ReadsAs s.mem (BitVec.ofNat 16 ((p + 1) % 256)) hi
    (∃ lo hi r, resolve (.izx b) s = some r ∧ points (b.toNat + s.x.toNat) lo hi ∧
      r.after.trace =
        [.readOperand (BitVec.ofNat 16 ((b.toNat + s.x.toNat + 1) % 256)) hi,
          .readOperand (BitVec.ofNat 16 ((b.toNat + s.x.toNat) % 256)) lo,
          .dummyRead (zeroPage b) (s.busValue (zeroPage b))] ++ s.trace ∧
      r.ea = wordOf hi lo ∧ r.cross = false) ∧
    ∃ lo hi r, resolve (.izy b) s = some r ∧ points b.toNat lo hi ∧
      r.after.trace =
        [.readOperand (BitVec.ofNat 16 ((b.toNat + 1) % 256)) hi, .readOperand (zeroPage b) lo] ++ s.trace ∧
      r.ea = BitVec.ofNat 16 ((256 * hi.toNat + lo.toNat + s.y.toNat) % 65536) ∧
      r.unc = some (BitVec.ofNat 16 (256 * hi.toNat + (lo.toNat + s.y.toNat) % 256)) ∧
      (r.cross = true ↔ 255 < lo.toNat + s.y.toNat)

/-- The dummy reads a device sees, for every form of every instruction that accesses an operand in memory (R62, R128, R133, R144,
R322). Zero page,X and ,Y and (Indirect,X) make one at the un-indexed address, always (R125, R126, R130); absolute,X and ,Y and
(Indirect),Y have an un-carried address, where a read makes one exactly when it crosses a page, and a store and a
read-modify-write always, before the accesses to the operand (R131, R150, R152); no other form makes any. Which discarded cycles
are dummy reads is the spec's decision D4, the always-made one its decision D27. -/
def Obligations.DummyReadsOfIndexedModes : Prop :=
  ∀ (i : Instr) (o : Operand) (s : State) (r : Resolution), i.WellFormed → instrOperand? i = some o → resolve o s = some r →
    let unindexed (b : Byte) : MicroStep := .dummyRead (zeroPage b) (s.busValue (zeroPage b))
    let uncarriedRead : List MicroStep :=
      match r.unc with
      | some u => [.dummyRead u (r.after.busValue u)]
      | none => []
    (match o with
      | .zpx b => r.unc = none ∧ r.after.trace = [unindexed b] ++ s.trace
      | .zpy b => r.unc = none ∧ r.after.trace = [unindexed b] ++ s.trace
      | .izx b => r.unc = none ∧ ∃ lo hi, r.after.trace =
          [.readOperand (zeroPage (b + s.x + 1)) hi, .readOperand (zeroPage (b + s.x)) lo, unindexed b] ++ s.trace
      | .izy b => ∃ lo hi, r.unc = some (uncarried (wordOf hi lo) s.y) ∧ (r.cross = true ↔ 255 < lo.toNat + s.y.toNat) ∧
          r.after.trace = [.readOperand (zeroPage (b + 1)) hi, .readOperand (zeroPage b) lo] ++ s.trace
      | .abx w => r.unc = some (uncarried w s.x) ∧ (r.cross = true ↔ 255 < w.toNat % 256 + s.x.toNat) ∧
          r.after.trace = s.trace
      | .aby w => r.unc = some (uncarried w s.y) ∧ (r.cross = true ↔ 255 < w.toNat % 256 + s.y.toNat) ∧
          r.after.trace = s.trace
      | .zp _ => r.unc = none ∧ r.after.trace = s.trace
      | .abs _ => r.unc = none ∧ r.after.trace = s.trace
      | .acc => False
      | .imm _ => False
      | .ind _ => False) ∧
    (i.kind ∈ ([.lda, .ldx, .ldy, .ora, .and, .eor, .adc, .sbc, .cmp, .cpx, .cpy, .bit] : List Kind) →
      ∃ t v, exec i s = .next t ∧
        t.trace = [.readOperand r.ea v] ++ ((if r.cross then uncarriedRead else []) ++ r.after.trace)) ∧
    (i.kind ∈ ([.sta, .stx, .sty] : List Kind) →
      ∃ t v, exec i s = .next t ∧ t.trace = [.writeOperand r.ea v] ++ (uncarriedRead ++ r.after.trace)) ∧
    (i.kind ∈ ([.asl, .lsr, .rol, .ror, .inc, .dec] : List Kind) →
      ∃ t m v, exec i s = .next t ∧
        t.trace = [.writeOperand r.ea v, .writeOperand r.ea m, .readOperand r.ea m] ++ (uncarriedRead ++ r.after.trace))

/-! ## Arithmetic -/

/-- `add_binary` (R210): the sum modulo 256, the carry out, and V exactly when the signed sum leaves -128..127; with the second
argument complemented, C is 1 exactly when there is no borrow and V when the signed difference leaves that range. -/
def Obligations.AddBinary : Prop :=
  ∀ (a b : Byte) (c : Bool),
    (addBinary a b c).r.toNat = (a.toNat + b.toNat + bit01 c) % 256 ∧
    ((addBinary a b c).c = true ↔ 255 < a.toNat + b.toNat + bit01 c) ∧
    (addBinary a b c).v = (~~~(a ^^^ b) &&& (a ^^^ (addBinary a b c).r)).getLsbD 7 ∧
    ((addBinary a b c).v = true ↔
      a.toInt + b.toInt + bit01 c < -128 ∨ 127 < a.toInt + b.toInt + bit01 c) ∧
    ((addBinary a (b ^^^ 0xFF) c).c = true ↔ b.toNat + (1 - bit01 c) ≤ a.toNat) ∧
    ((addBinary a (b ^^^ 0xFF) c).v = true ↔
      a.toInt - b.toInt - (1 - bit01 c : Int) < -128 ∨ 127 < a.toInt - b.toInt - (1 - bit01 c : Int))

/-- Decimal ADC and SBC (R211, R212): on operands of decimal digits the result is the decimal sum or difference modulo 100, and C
of ADC is the hundreds digit; V is the binary result's on every operand, and C of SBC is the binary carry on every operand, bytes
with invalid digits included (the spec's own decision D11). -/
def Obligations.DecimalArithmetic : Prop :=
  ∀ (a b : Byte) (c : Bool),
    (adcDecimal a b c).v = (addBinary a b c).v ∧
    (validBcd a → validBcd b →
      validBcd (adcDecimal a b c).r ∧
      bcdValue (adcDecimal a b c).r = (bcdValue a + bcdValue b + bit01 c) % 100 ∧
      ((adcDecimal a b c).c = true ↔ 100 ≤ bcdValue a + bcdValue b + bit01 c)) ∧
    (sbcDecimal a b c).v = (addBinary a (b ^^^ 0xFF) c).v ∧ (sbcDecimal a b c).c = (addBinary a (b ^^^ 0xFF) c).c ∧
    (validBcd a → validBcd b →
      validBcd (sbcDecimal a b c).r ∧
      (bcdValue (sbcDecimal a b c).r : Int) = ((bcdValue a : Int) - bcdValue b - (1 - bit01 c)) % 100)

/-! ## Instructions: what each does, where it completes, what it leaves alone -/

/-- LDA, LDX, LDY (R170 to R172): every form completes; the register takes the operand byte, N and Z follow it. -/
def Obligations.LoadsComplete : Prop :=
  ∀ (o : Operand) (s : State),
    (Kind.lda.modes.contains o.mode = true →
      Completes (.lda o) s { s.registers with a := operandByte o s, flags := withNZ s.flags (operandByte o s) }) ∧
    (Kind.ldx.modes.contains o.mode = true →
      Completes (.ldx o) s { s.registers with x := operandByte o s, flags := withNZ s.flags (operandByte o s) }) ∧
    (Kind.ldy.modes.contains o.mode = true →
      Completes (.ldy o) s { s.registers with y := operandByte o s, flags := withNZ s.flags (operandByte o s) })

/-- The operand byte (R123, R144): an immediate byte is the operand itself; any other form reads it at its effective address, and
there from RAM or ROM it is the byte held. -/
def Obligations.OperandByte : Prop :=
  ∀ (o : Operand) (s : State),
    (∀ b, operandByte (.imm b) s = b) ∧
    (∀ ea, operandAddress o s = some ea → memoryBacked s.mappings ea = true →
      operandByte o s = s.mem.read ea.toNat ∧ oldByte o s = s.mem.read ea.toNat) ∧
    (∀ ea, operandAddress o s = some ea → lookup s.mappings ea = none →
      operandByte o s = s.cfg.openBus ∧ oldByte o s = s.cfg.openBus)

/-- STA, STX, STY (R173 to R175): every form completes with the register's byte written at its effective address; no register and
no flag changes. -/
def Obligations.StoresComplete : Prop :=
  ∀ (o : Operand) (s : State), s.mem.wf = true →
    (Kind.sta.modes.contains o.mode = true → (operandAddress o s).isSome = true ∧
      ∀ ea, operandAddress o s = some ea → CompletesStoring (.sta o) s s.registers ea s.a) ∧
    (Kind.stx.modes.contains o.mode = true → (operandAddress o s).isSome = true ∧
      ∀ ea, operandAddress o s = some ea → CompletesStoring (.stx o) s s.registers ea s.x) ∧
    (Kind.sty.modes.contains o.mode = true → (operandAddress o s).isSome = true ∧
      ∀ ea, operandAddress o s = some ea → CompletesStoring (.sty o) s s.registers ea s.y)

/-- The register transfers, INX, INY, DEX, DEY (R176 to R181, R227 to R230): each completes; TXS alone leaves N and Z as they
are; the steps wrap modulo 256 and leave C as it is. -/
def Obligations.RegisterInstructionsComplete : Prop :=
  ∀ s : State,
    let up (b : Byte) : Byte := BitVec.ofNat 8 (b.toNat + 1)
    let down (b : Byte) : Byte := BitVec.ofNat 8 (b.toNat + 255)
    Completes .tax s { s.registers with x := s.a, flags := withNZ s.flags s.a } ∧
    Completes .tay s { s.registers with y := s.a, flags := withNZ s.flags s.a } ∧
    Completes .txa s { s.registers with a := s.x, flags := withNZ s.flags s.x } ∧
    Completes .tya s { s.registers with a := s.y, flags := withNZ s.flags s.y } ∧
    Completes .tsx s { s.registers with x := s.sp, flags := withNZ s.flags s.sp } ∧
    Completes .txs s { s.registers with sp := s.x } ∧
    Completes .inx s { s.registers with x := up s.x, flags := withNZ s.flags (up s.x) } ∧
    Completes .iny s { s.registers with y := up s.y, flags := withNZ s.flags (up s.y) } ∧
    Completes .dex s { s.registers with x := down s.x, flags := withNZ s.flags (down s.x) } ∧
    Completes .dey s { s.registers with y := down s.y, flags := withNZ s.flags (down s.y) }

/-- ORA, AND, EOR (R201 to R203): every form completes; A takes the bitwise result, N and Z follow it. -/
def Obligations.LogicCompletes : Prop :=
  ∀ (o : Operand) (s : State),
    (Kind.ora.modes.contains o.mode = true →
      Completes (.ora o) s
        { s.registers with a := s.a ||| operandByte o s, flags := withNZ s.flags (s.a ||| operandByte o s) }) ∧
    (Kind.and.modes.contains o.mode = true →
      Completes (.and o) s
        { s.registers with a := s.a &&& operandByte o s, flags := withNZ s.flags (s.a &&& operandByte o s) }) ∧
    (Kind.eor.modes.contains o.mode = true →
      Completes (.eor o) s
        { s.registers with a := s.a ^^^ operandByte o s, flags := withNZ s.flags (s.a ^^^ operandByte o s) })

/-- ADC, SBC (R204, R205): every form completes; with D = 0 the sum is binary, and SBC's is `add_binary` on the complemented
operand, A - m - (1 - C) modulo 256; with D = 1 both are decimal, by the formulas of R211 and R212. N, V, Z, C are written, D and I
are not; C after SBC is 1 exactly when there is no borrow. That with D = 1 N and Z come from the corrected result, and that bytes
with invalid digits follow the formulas, is the spec's own decision D11. -/
def Obligations.AddAndSubtractComplete : Prop :=
  ∀ (o : Operand) (s : State),
    let m := operandByte o s
    let sum := if s.flags.d then adcDecimal s.a m s.flags.c else addBinary s.a m s.flags.c
    let diff := if s.flags.d then sbcDecimal s.a m s.flags.c else addBinary s.a (m ^^^ 0xFF) s.flags.c
    (Kind.adc.modes.contains o.mode = true →
      Completes (.adc o) s
        { s.registers with a := sum.r, flags := withNZ { s.flags with c := sum.c, v := sum.v } sum.r }) ∧
    (Kind.sbc.modes.contains o.mode = true →
      Completes (.sbc o) s
        { s.registers with a := diff.r, flags := withNZ { s.flags with c := diff.c, v := diff.v } diff.r }) ∧
    (s.flags.d = false → diff.r = s.a - m - (if s.flags.c then 0 else 1)) ∧
    (diff.c = true ↔ m.toNat + (if s.flags.c then 0 else 1) ≤ s.a.toNat)

/-- CMP, CPX, CPY, BIT (R206 to R209, R213): every form completes and only flags change. A compare sets C by the unsigned comparison,
Z by equality and N from bit 7 of the difference; BIT takes N and V from the operand. -/
def Obligations.ComparesAndBitComplete : Prop :=
  ∀ (o : Operand) (s : State),
    let m := operandByte o s
    let compared (r : Byte) : Flags :=
      { s.flags with
        c := decide (m.toNat ≤ r.toNat)
        z := decide (r = m)
        n := decide (128 ≤ (r.toNat + 256 - m.toNat) % 256) }
    (Kind.cmp.modes.contains o.mode = true →
      Completes (.cmp o) s { s.registers with flags := compared s.a }) ∧
    (Kind.cpx.modes.contains o.mode = true →
      Completes (.cpx o) s { s.registers with flags := compared s.x }) ∧
    (Kind.cpy.modes.contains o.mode = true →
      Completes (.cpy o) s { s.registers with flags := compared s.y }) ∧
    (Kind.bit.modes.contains o.mode = true →
      Completes (.bit o) s
        { s.registers with
          flags :=
            { s.flags with
              z := decide (s.a &&& m = 0)
              n := decide (128 ≤ m.toNat)
              v := decide (64 ≤ m.toNat % 128) } })

/-- ASL, LSR, ROL, ROR, INC, DEC on memory (R220 to R226): every memory form completes with the new value written at its
effective address; N, Z follow the new value, C takes the bit shifted out, INC and DEC leave C alone. -/
def Obligations.MemoryModifiesComplete : Prop :=
  ∀ (o : Operand) (s : State), s.mem.wf = true → o ≠ .acc →
    let m := oldByte o s
    let stores (i : Instr) (f : Flags) (r : Byte) : Prop :=
      (operandAddress o s).isSome = true ∧
        ∀ ea, operandAddress o s = some ea → CompletesStoring i s { s.registers with flags := withNZ f r } ea r
    (Kind.asl.modes.contains o.mode = true →
      stores (.asl o) { s.flags with c := decide (128 ≤ m.toNat) } (BitVec.ofNat 8 (2 * m.toNat))) ∧
    (Kind.lsr.modes.contains o.mode = true →
      stores (.lsr o) { s.flags with c := decide (m.toNat % 2 = 1) } (BitVec.ofNat 8 (m.toNat / 2))) ∧
    (Kind.rol.modes.contains o.mode = true →
      stores (.rol o) { s.flags with c := decide (128 ≤ m.toNat) } (BitVec.ofNat 8 (2 * m.toNat + bit01 s.flags.c))) ∧
    (Kind.ror.modes.contains o.mode = true →
      stores (.ror o) { s.flags with c := decide (m.toNat % 2 = 1) } (BitVec.ofNat 8 (m.toNat / 2 + 128 * bit01 s.flags.c))) ∧
    (Kind.inc.modes.contains o.mode = true → stores (.inc o) s.flags (BitVec.ofNat 8 (m.toNat + 1))) ∧
    (Kind.dec.modes.contains o.mode = true → stores (.dec o) s.flags (BitVec.ofNat 8 (m.toNat + 255)))

/-- ASL, LSR, ROL, ROR on the accumulator (R145, R220 to R224): complete in one internal cycle with no memory access. -/
def Obligations.AccumulatorShiftsComplete : Prop :=
  ∀ s : State,
    let shifts (i : Instr) (c : Bool) (r : Byte) : Prop :=
      Completes i s { s.registers with a := r, flags := withNZ { s.flags with c := c } r }
    shifts (.asl .acc) (decide (128 ≤ s.a.toNat)) (BitVec.ofNat 8 (2 * s.a.toNat)) ∧
    shifts (.lsr .acc) (decide (s.a.toNat % 2 = 1)) (BitVec.ofNat 8 (s.a.toNat / 2)) ∧
    shifts (.rol .acc) (decide (128 ≤ s.a.toNat)) (BitVec.ofNat 8 (2 * s.a.toNat + bit01 s.flags.c)) ∧
    shifts (.ror .acc) (decide (s.a.toNat % 2 = 1)) (BitVec.ofNat 8 (s.a.toNat / 2 + 128 * bit01 s.flags.c))

/-- A read-modify-write instruction on memory ends in three bus accesses to one address: the read, the old value written back,
the new value written (R65, R144, R220). -/
def Obligations.ModifyWritesTwice : Prop :=
  ∀ (o : Operand) (s : State) (ea : Word), operandAddress o s = some ea →
    let twice (i : Instr) (new : Byte → Byte) : Prop :=
      ∃ t m rest, exec i s = .next t ∧
        t.trace = [.writeOperand ea (new m), .writeOperand ea m, .readOperand ea m] ++ rest ∧ s.trace <:+ rest ∧
        m = oldByte o s
    (Kind.asl.modes.contains o.mode = true → twice (.asl o) (aslValue s.flags)) ∧
    (Kind.lsr.modes.contains o.mode = true → twice (.lsr o) (lsrValue s.flags)) ∧
    (Kind.rol.modes.contains o.mode = true → twice (.rol o) (rolValue s.flags)) ∧
    (Kind.ror.modes.contains o.mode = true → twice (.ror o) (rorValue s.flags)) ∧
    (Kind.inc.modes.contains o.mode = true → twice (.inc o) (incValue s.flags)) ∧
    (Kind.dec.modes.contains o.mode = true → twice (.dec o) (decValue s.flags))

/-- JMP (R129, R240): the absolute form goes to its operand; the indirect form reads both pointer bytes from one page, the high
byte with no carry into the next page, and goes to the word read (`OPEN_BUS` for an unmapped byte: R56). -/
def Obligations.JumpsComplete : Prop :=
  ∀ (s : State) (w : Word),
    Completes (.jmp (.abs w)) s { s.registers with pc := w } ∧
    ∃ lo hi t, exec (.jmp (.ind w)) s = .next t ∧
      t.registers = { s.registers with pc := wordOf hi lo } ∧ s.SameSystem t ∧ sameMemory s t ∧
      (let next := BitVec.ofNat 16 (w.toNat / 256 * 256 + (w.toNat + 1) % 256)
       t.trace = [.readOperand next hi, .readOperand w lo] ++ s.trace ∧
        s.ReadsAs s.mem w lo ∧ s.ReadsAs s.mem next hi)

/-- JSR (R156, R241), from the state with PC at its third byte: PC is pushed, high byte first, then the third byte is read, after
the pushes (`OPEN_BUS` if it is unmapped: R56), and PC becomes the target; SP is 2 less and no flag changes. -/
def Obligations.JsrCompletes : Prop :=
  ∀ (s : State) (target : Word), s.mem.wf = true →
    ∃ hi t, exec (.jsr target) s = .next t ∧
      t.registers = { s.registers with sp := s.sp - 2, pc := wordOf hi (lowByte target) } ∧ s.SameSystem t ∧
      t.trace =
        [.readOperand s.pc hi, .writeOperand (stackAddress (s.sp - 1)) (lowByte s.pc),
          .writeOperand (stackAddress s.sp) (highByte s.pc), .internalCycle] ++ s.trace ∧
      s.ReadsAs t.mem s.pc hi ∧
      holds s t (stackAddress s.sp) (highByte s.pc) ∧ holds s t (stackAddress (s.sp - 1)) (lowByte s.pc) ∧
      ∀ x : Nat, x ≠ (stackAddress s.sp).toNat → x ≠ (stackAddress (s.sp - 1)).toNat → t.mem.read x = s.mem.read x

/-- RTS (R157, R242): two bytes are pulled, low byte first, and PC is one more than their word; SP is 2 more. From an unmapped stack
each pull gives `OPEN_BUS` (R325). -/
def Obligations.RtsCompletes : Prop :=
  ∀ s : State,
    ∃ lo hi t, exec .rts s = .next t ∧
      t.registers = { s.registers with sp := s.sp + 2, pc := wordOf hi lo + 1 } ∧ s.SameSystem t ∧ sameMemory s t ∧
      t.trace =
        [.internalCycle, .readOperand (stackAddress (s.sp + 2)) hi, .readOperand (stackAddress (s.sp + 1)) lo,
          .internalCycle, .internalCycle] ++ s.trace ∧
      s.ReadsAs s.mem (stackAddress (s.sp + 1)) lo ∧ s.ReadsAs s.mem (stackAddress (s.sp + 2)) hi

/-- The eight branches (R243 to R251): each completes at the target when its condition holds, else at the next instruction; no
flag and no register but PC changes. -/
def Obligations.BranchesComplete : Prop :=
  ∀ (s : State) (off : Byte),
    let goes (i : Instr) (cond : Bool) : Prop :=
      Completes i s { s.registers with pc := if cond then branchTarget s.pc off else s.pc }
    goes (.bpl off) (!s.flags.n) ∧ goes (.bmi off) s.flags.n ∧ goes (.bvc off) (!s.flags.v) ∧ goes (.bvs off) s.flags.v ∧
    goes (.bcc off) (!s.flags.c) ∧ goes (.bcs off) s.flags.c ∧ goes (.bne off) (!s.flags.z) ∧ goes (.beq off) s.flags.z

/-- The flag instructions and NOP (R260 to R267): each completes and writes its one flag; NOP writes nothing. -/
def Obligations.FlagInstructionsComplete : Prop :=
  ∀ s : State,
    Completes .clc s { s.registers with flags := { s.flags with c := false } } ∧
    Completes .sec s { s.registers with flags := { s.flags with c := true } } ∧
    Completes .cli s { s.registers with flags := { s.flags with i := false } } ∧
    Completes .sei s { s.registers with flags := { s.flags with i := true } } ∧
    Completes .clv s { s.registers with flags := { s.flags with v := false } } ∧
    Completes .cld s { s.registers with flags := { s.flags with d := false } } ∧
    Completes .sed s { s.registers with flags := { s.flags with d := true } } ∧
    Completes .nop s s.registers

/-- PHA and PHP (R190, R191): complete with one byte written at the stack address and SP one less; PHP pushes the status with
B = 1. No flag changes. -/
def Obligations.PushesComplete : Prop :=
  ∀ s : State, s.mem.wf = true →
    CompletesStoring .pha s { s.registers with sp := s.sp - 1 } (stackAddress s.sp) s.a ∧
    CompletesStoring .php s { s.registers with sp := s.sp - 1 } (stackAddress s.sp) (pPush s.flags true)

/-- PLA and PLP (R192, R193): complete with the byte above SP pulled and SP one more; PLA sets N and Z, PLP all six flags. From an
unmapped stack the byte is `OPEN_BUS` (R325). -/
def Obligations.PullsComplete : Prop :=
  ∀ s : State,
    let top := stackAddress (s.sp + 1)
    ∃ m,
      s.ReadsAs s.mem top m ∧
      Completes .pla s { s.registers with sp := s.sp + 1, a := m, flags := withNZ s.flags m } ∧
      Completes .plp s
        { s.registers with
          sp := s.sp + 1
          flags :=
            { n := m.getLsbD 7, v := m.getLsbD 6, d := m.getLsbD 3, i := m.getLsbD 2, z := m.getLsbD 1, c := m.getLsbD 0 } } ∧
      (∀ t, exec .plp s = .next t →
        t.trace = [.readOperand top m, .internalCycle, .internalCycle] ++ s.trace)

/-- BRK (R161, R268), from the state with PC just past its opcode: the entry sequence with the address after the skipped byte and
the status with B = 1 pushed, through 0xFFFE; masked by nothing. That entry is BRK's own effect. An unmapped vector byte is
`OPEN_BUS` and a push to an unmapped stack is lost (R325). -/
def Obligations.BrkCompletes : Prop :=
  ∀ s : State, s.mem.wf = true →
    ∃ t, exec .brk s = .next t ∧ s.SameSystem t ∧ TakesVector s t 1 (s.pc + 1) (pPush s.flags true) 0xFFFE

/-- RTI (R158, R269): completes; the status, PC low and PC high are pulled, nothing is added to PC, SP is 3 more, and bits 5 and
4 of the status byte are ignored. From an unmapped stack each pull gives `OPEN_BUS` (R325). -/
def Obligations.RtiCompletes : Prop :=
  ∀ s : State,
    ∃ m lo hi t, exec .rti s = .next t ∧ s.SameSystem t ∧ sameMemory s t ∧
      t.registers =
        { s.registers with
          sp := s.sp + 3
          pc := wordOf hi lo
          flags :=
            { n := m.getLsbD 7, v := m.getLsbD 6, d := m.getLsbD 3, i := m.getLsbD 2, z := m.getLsbD 1, c := m.getLsbD 0 } } ∧
      t.trace =
        [.readOperand (stackAddress (s.sp + 3)) hi, .readOperand (stackAddress (s.sp + 2)) lo,
          .readOperand (stackAddress (s.sp + 1)) m, .internalCycle, .internalCycle] ++ s.trace ∧
      s.ReadsAs s.mem (stackAddress (s.sp + 1)) m ∧ s.ReadsAs s.mem (stackAddress (s.sp + 2)) lo ∧
      s.ReadsAs s.mem (stackAddress (s.sp + 3)) hi

/-- A return undoes its call, when page 1 is RAM and the code between leaves SP, memory and mappings as they were: RTI after BRK
restores PC, at the byte after the skipped one, the flags with the I of before, and SP (R268, R269, R290); RTS after JSR goes to
the instruction after the JSR, with SP restored (R241, R242); PLA and PLP give back what PHA and PHP pushed (R190 to R193). -/
def Obligations.ReturnsUndoCalls : Prop :=
  ∀ s v : State, s.mem.wf = true → (∀ sp : Byte, s.deviceAt (stackAddress sp) = some .ram) →
    (∃ t, exec .brk s = .next t ∧
      (v.sp = t.sp → v.mem = t.mem → v.mappings = t.mappings →
        ∃ u, exec .rti v = .next u ∧ u.registers = { v.registers with pc := s.pc + 1, sp := s.sp, flags := s.flags })) ∧
    (∀ target, ∃ t, exec (.jsr target) s = .next t ∧
      (v.sp = t.sp → v.mem = t.mem → v.mappings = t.mappings →
        ∃ u, exec .rts v = .next u ∧ u.registers = { v.registers with pc := s.pc + 1, sp := s.sp })) ∧
    (∃ t, exec .pha s = .next t ∧
      (v.sp = t.sp → v.mem = t.mem → v.mappings = t.mappings →
        ∃ u, exec .pla v = .next u ∧ u.a = s.a ∧ u.sp = s.sp)) ∧
    (∃ t, exec .php s = .next t ∧
      (v.sp = t.sp → v.mem = t.mem → v.mappings = t.mappings →
        ∃ u, exec .plp v = .next u ∧ u.flags = s.flags ∧ u.sp = s.sp))

/-- A form the table of R86 does not give an instruction is refused by name (R86, R89; log 16). -/
def Obligations.FormsOutsideTheTableAreRefused : Prop :=
  ∀ (i : Instr) (s : State), ¬ i.WellFormed → exec i s = .refused .noSuchForm

/-- Which instructions write which flag (R27), over the whole set: an instruction that is not in a flag's list leaves
that flag as it was. -/
def Obligations.FlagsAreWrittenOnlyByTheListedInstructions : Prop :=
  ∀ (i : Instr) (s t : State), exec i s = .next t →
    (t.flags.n ≠ s.flags.n ∨ t.flags.z ≠ s.flags.z →
      i.kind ∈ ([.lda, .ldx, .ldy, .tax, .tay, .txa, .tya, .tsx, .pla, .ora, .and, .eor, .adc, .sbc, .cmp, .cpx, .cpy, .bit,
        .inc, .dec, .inx, .iny, .dex, .dey, .asl, .lsr, .rol, .ror, .plp, .rti] : List Kind)) ∧
    (t.flags.v ≠ s.flags.v → i.kind ∈ ([.adc, .sbc, .bit, .clv, .plp, .rti] : List Kind)) ∧
    (t.flags.d ≠ s.flags.d → i.kind ∈ ([.sed, .cld, .plp, .rti] : List Kind)) ∧
    (t.flags.i ≠ s.flags.i → i.kind ∈ ([.sei, .cli, .plp, .rti, .brk] : List Kind)) ∧
    (t.flags.c ≠ s.flags.c →
      i.kind ∈ ([.adc, .sbc, .cmp, .cpx, .cpy, .asl, .lsr, .rol, .ror, .clc, .sec, .plp, .rti] : List Kind))

/-- Which instructions write which register (R21 to R24), over the whole set. -/
def Obligations.RegistersAreWrittenOnlyByTheListedInstructions : Prop :=
  ∀ (i : Instr) (s t : State), exec i s = .next t →
    (t.a ≠ s.a →
      i.kind ∈ ([.lda, .txa, .tya, .pla, .ora, .and, .eor, .adc, .sbc] : List Kind) ∨
        i ∈ ([.asl .acc, .lsr .acc, .rol .acc, .ror .acc] : List Instr)) ∧
    (t.x ≠ s.x → i.kind ∈ ([.ldx, .tax, .tsx, .inx, .dex] : List Kind)) ∧
    (t.y ≠ s.y → i.kind ∈ ([.ldy, .tay, .iny, .dey] : List Kind)) ∧
    (t.sp ≠ s.sp → i.kind ∈ ([.txs, .pha, .php, .pla, .plp, .jsr, .rts, .rti, .brk] : List Kind)) ∧
    (t.pc ≠ s.pc →
      i.kind ∈ ([.jmp, .jsr, .rts, .rti, .brk, .bpl, .bmi, .bvc, .bvs, .bcc, .bcs, .bne, .beq] : List Kind)) ∧
    ((∃ x, t.mem.read x ≠ s.mem.read x) →
      i.kind ∈ ([.sta, .stx, .sty, .pha, .php, .jsr, .brk, .asl, .lsr, .rol, .ror, .inc, .dec] : List Kind))

end
end

