-- ==== Sys2Proof/Laws/State.lean ====
section
/-! SUPPORT. What each primitive operation leaves in each field of the state, true by definition, so that no later proof
unfolds a record update; and that updates which touch neither memory, bus nor trace leave every bus answer as it was. -/

namespace Sys2Proof.Machine

variable (s : State)

/-! ## readCycle -/

@[simp] theorem readCycle_a (step : Word → Byte → MicroStep) (a : Word) : (s.readCycle step a).a = s.a := rfl
@[simp] theorem readCycle_x (step : Word → Byte → MicroStep) (a : Word) : (s.readCycle step a).x = s.x := rfl
@[simp] theorem readCycle_y (step : Word → Byte → MicroStep) (a : Word) : (s.readCycle step a).y = s.y := rfl
@[simp] theorem readCycle_sp (step : Word → Byte → MicroStep) (a : Word) : (s.readCycle step a).sp = s.sp := rfl
@[simp] theorem readCycle_pc (step : Word → Byte → MicroStep) (a : Word) : (s.readCycle step a).pc = s.pc := rfl
@[simp] theorem readCycle_flags (step : Word → Byte → MicroStep) (a : Word) : (s.readCycle step a).flags = s.flags := rfl
@[simp] theorem readCycle_irqLine (step : Word → Byte → MicroStep) (a : Word) : (s.readCycle step a).irqLine = s.irqLine := rfl
@[simp] theorem readCycle_nmiPending (step : Word → Byte → MicroStep) (a : Word) : (s.readCycle step a).nmiPending = s.nmiPending := rfl
@[simp] theorem readCycle_brkFlag (step : Word → Byte → MicroStep) (a : Word) : (s.readCycle step a).brkFlag = s.brkFlag := rfl
@[simp] theorem readCycle_fsm (step : Word → Byte → MicroStep) (a : Word) : (s.readCycle step a).fsm = s.fsm := rfl
@[simp] theorem readCycle_latches (step : Word → Byte → MicroStep) (a : Word) : (s.readCycle step a).latches = s.latches := rfl
@[simp] theorem readCycle_mappings (step : Word → Byte → MicroStep) (a : Word) : (s.readCycle step a).mappings = s.mappings := rfl
@[simp] theorem readCycle_mem (step : Word → Byte → MicroStep) (a : Word) : (s.readCycle step a).mem = s.mem := rfl
@[simp] theorem readCycle_diagnostics (step : Word → Byte → MicroStep) (a : Word) : (s.readCycle step a).diagnostics = s.diagnosticsAfter (.read a) a := rfl
@[simp] theorem readCycle_signals (step : Word → Byte → MicroStep) (a : Word) : (s.readCycle step a).signals = s.signals := rfl
@[simp] theorem readCycle_trace (step : Word → Byte → MicroStep) (a : Word) : (s.readCycle step a).trace = step a (s.busValue a) :: s.trace := rfl
@[simp] theorem readCycle_cfg (step : Word → Byte → MicroStep) (a : Word) : (s.readCycle step a).cfg = s.cfg := rfl
@[simp] theorem readCycle_deviceAt (step : Word → Byte → MicroStep) (a : Word) (adr : Word) : (s.readCycle step a).deviceAt adr = s.deviceAt adr := rfl

/-! ## fetchOpcode -/

@[simp] theorem fetchOpcode_a : s.fetchOpcode.a = s.a := rfl
@[simp] theorem fetchOpcode_x : s.fetchOpcode.x = s.x := rfl
@[simp] theorem fetchOpcode_y : s.fetchOpcode.y = s.y := rfl
@[simp] theorem fetchOpcode_sp : s.fetchOpcode.sp = s.sp := rfl
@[simp] theorem fetchOpcode_pc : s.fetchOpcode.pc = s.pc := rfl
@[simp] theorem fetchOpcode_flags : s.fetchOpcode.flags = s.flags := rfl
@[simp] theorem fetchOpcode_irqLine : s.fetchOpcode.irqLine = s.irqLine := rfl
@[simp] theorem fetchOpcode_nmiPending : s.fetchOpcode.nmiPending = s.nmiPending := rfl
@[simp] theorem fetchOpcode_brkFlag : s.fetchOpcode.brkFlag = s.brkFlag := rfl
@[simp] theorem fetchOpcode_fsm : s.fetchOpcode.fsm = s.fsm := rfl
@[simp] theorem fetchOpcode_latches : s.fetchOpcode.latches = s.latches := rfl
@[simp] theorem fetchOpcode_mappings : s.fetchOpcode.mappings = s.mappings := rfl
@[simp] theorem fetchOpcode_mem : s.fetchOpcode.mem = s.mem := rfl
@[simp] theorem fetchOpcode_diagnostics : s.fetchOpcode.diagnostics = s.diagnosticsAfter (.read s.pc) s.pc := rfl
@[simp] theorem fetchOpcode_signals : s.fetchOpcode.signals = s.signals := rfl
@[simp] theorem fetchOpcode_trace : s.fetchOpcode.trace = .fetchOpcode s.pc (s.busValue s.pc) :: s.trace := rfl
@[simp] theorem fetchOpcode_cfg : s.fetchOpcode.cfg = s.cfg := rfl
@[simp] theorem fetchOpcode_deviceAt (adr : Word) : s.fetchOpcode.deviceAt adr = s.deviceAt adr := rfl

/-! ## readOperand -/

@[simp] theorem readOperand_a (a : Word) : (s.readOperand a).a = s.a := rfl
@[simp] theorem readOperand_x (a : Word) : (s.readOperand a).x = s.x := rfl
@[simp] theorem readOperand_y (a : Word) : (s.readOperand a).y = s.y := rfl
@[simp] theorem readOperand_sp (a : Word) : (s.readOperand a).sp = s.sp := rfl
@[simp] theorem readOperand_pc (a : Word) : (s.readOperand a).pc = s.pc := rfl
@[simp] theorem readOperand_flags (a : Word) : (s.readOperand a).flags = s.flags := rfl
@[simp] theorem readOperand_irqLine (a : Word) : (s.readOperand a).irqLine = s.irqLine := rfl
@[simp] theorem readOperand_nmiPending (a : Word) : (s.readOperand a).nmiPending = s.nmiPending := rfl
@[simp] theorem readOperand_brkFlag (a : Word) : (s.readOperand a).brkFlag = s.brkFlag := rfl
@[simp] theorem readOperand_fsm (a : Word) : (s.readOperand a).fsm = s.fsm := rfl
@[simp] theorem readOperand_latches (a : Word) : (s.readOperand a).latches = s.latches := rfl
@[simp] theorem readOperand_mappings (a : Word) : (s.readOperand a).mappings = s.mappings := rfl
@[simp] theorem readOperand_mem (a : Word) : (s.readOperand a).mem = s.mem := rfl
@[simp] theorem readOperand_diagnostics (a : Word) : (s.readOperand a).diagnostics = s.diagnosticsAfter (.read a) a := rfl
@[simp] theorem readOperand_signals (a : Word) : (s.readOperand a).signals = s.signals := rfl
@[simp] theorem readOperand_trace (a : Word) : (s.readOperand a).trace = .readOperand a (s.busValue a) :: s.trace := rfl
@[simp] theorem readOperand_cfg (a : Word) : (s.readOperand a).cfg = s.cfg := rfl
@[simp] theorem readOperand_deviceAt (a : Word) (adr : Word) : (s.readOperand a).deviceAt adr = s.deviceAt adr := rfl

/-! ## dummyRead -/

@[simp] theorem dummyRead_a (a : Word) : (s.dummyRead a).a = s.a := rfl
@[simp] theorem dummyRead_x (a : Word) : (s.dummyRead a).x = s.x := rfl
@[simp] theorem dummyRead_y (a : Word) : (s.dummyRead a).y = s.y := rfl
@[simp] theorem dummyRead_sp (a : Word) : (s.dummyRead a).sp = s.sp := rfl
@[simp] theorem dummyRead_pc (a : Word) : (s.dummyRead a).pc = s.pc := rfl
@[simp] theorem dummyRead_flags (a : Word) : (s.dummyRead a).flags = s.flags := rfl
@[simp] theorem dummyRead_irqLine (a : Word) : (s.dummyRead a).irqLine = s.irqLine := rfl
@[simp] theorem dummyRead_nmiPending (a : Word) : (s.dummyRead a).nmiPending = s.nmiPending := rfl
@[simp] theorem dummyRead_brkFlag (a : Word) : (s.dummyRead a).brkFlag = s.brkFlag := rfl
@[simp] theorem dummyRead_fsm (a : Word) : (s.dummyRead a).fsm = s.fsm := rfl
@[simp] theorem dummyRead_latches (a : Word) : (s.dummyRead a).latches = s.latches := rfl
@[simp] theorem dummyRead_mappings (a : Word) : (s.dummyRead a).mappings = s.mappings := rfl
@[simp] theorem dummyRead_mem (a : Word) : (s.dummyRead a).mem = s.mem := rfl
@[simp] theorem dummyRead_diagnostics (a : Word) : (s.dummyRead a).diagnostics = s.diagnosticsAfter (.read a) a := rfl
@[simp] theorem dummyRead_signals (a : Word) : (s.dummyRead a).signals = s.signals := rfl
@[simp] theorem dummyRead_trace (a : Word) : (s.dummyRead a).trace = .dummyRead a (s.busValue a) :: s.trace := rfl
@[simp] theorem dummyRead_cfg (a : Word) : (s.dummyRead a).cfg = s.cfg := rfl
@[simp] theorem dummyRead_deviceAt (a : Word) (adr : Word) : (s.dummyRead a).deviceAt adr = s.deviceAt adr := rfl

/-! ## writeOperand -/

@[simp] theorem writeOperand_a (a : Word) (v : Byte) : (s.writeOperand a v).a = s.a := rfl
@[simp] theorem writeOperand_x (a : Word) (v : Byte) : (s.writeOperand a v).x = s.x := rfl
@[simp] theorem writeOperand_y (a : Word) (v : Byte) : (s.writeOperand a v).y = s.y := rfl
@[simp] theorem writeOperand_sp (a : Word) (v : Byte) : (s.writeOperand a v).sp = s.sp := rfl
@[simp] theorem writeOperand_pc (a : Word) (v : Byte) : (s.writeOperand a v).pc = s.pc := rfl
@[simp] theorem writeOperand_flags (a : Word) (v : Byte) : (s.writeOperand a v).flags = s.flags := rfl
@[simp] theorem writeOperand_irqLine (a : Word) (v : Byte) : (s.writeOperand a v).irqLine = s.irqLine := rfl
@[simp] theorem writeOperand_nmiPending (a : Word) (v : Byte) : (s.writeOperand a v).nmiPending = s.nmiPending := rfl
@[simp] theorem writeOperand_brkFlag (a : Word) (v : Byte) : (s.writeOperand a v).brkFlag = s.brkFlag := rfl
@[simp] theorem writeOperand_fsm (a : Word) (v : Byte) : (s.writeOperand a v).fsm = s.fsm := rfl
@[simp] theorem writeOperand_latches (a : Word) (v : Byte) : (s.writeOperand a v).latches = s.latches := rfl
@[simp] theorem writeOperand_mappings (a : Word) (v : Byte) : (s.writeOperand a v).mappings = s.mappings := rfl
@[simp] theorem writeOperand_mem (a : Word) (v : Byte) : (s.writeOperand a v).mem = s.memAfterWrite a v := rfl
@[simp] theorem writeOperand_diagnostics (a : Word) (v : Byte) : (s.writeOperand a v).diagnostics = s.diagnosticsAfter (.write a v) a := rfl
@[simp] theorem writeOperand_signals (a : Word) (v : Byte) : (s.writeOperand a v).signals = s.signals := rfl
@[simp] theorem writeOperand_trace (a : Word) (v : Byte) : (s.writeOperand a v).trace = .writeOperand a v :: s.trace := rfl
@[simp] theorem writeOperand_cfg (a : Word) (v : Byte) : (s.writeOperand a v).cfg = s.cfg := rfl
@[simp] theorem writeOperand_deviceAt (a : Word) (v : Byte) (adr : Word) : (s.writeOperand a v).deviceAt adr = s.deviceAt adr := rfl

/-! ## internalCycle -/

@[simp] theorem internalCycle_a : s.internalCycle.a = s.a := rfl
@[simp] theorem internalCycle_x : s.internalCycle.x = s.x := rfl
@[simp] theorem internalCycle_y : s.internalCycle.y = s.y := rfl
@[simp] theorem internalCycle_sp : s.internalCycle.sp = s.sp := rfl
@[simp] theorem internalCycle_pc : s.internalCycle.pc = s.pc := rfl
@[simp] theorem internalCycle_flags : s.internalCycle.flags = s.flags := rfl
@[simp] theorem internalCycle_irqLine : s.internalCycle.irqLine = s.irqLine := rfl
@[simp] theorem internalCycle_nmiPending : s.internalCycle.nmiPending = s.nmiPending := rfl
@[simp] theorem internalCycle_brkFlag : s.internalCycle.brkFlag = s.brkFlag := rfl
@[simp] theorem internalCycle_fsm : s.internalCycle.fsm = s.fsm := rfl
@[simp] theorem internalCycle_latches : s.internalCycle.latches = s.latches := rfl
@[simp] theorem internalCycle_mappings : s.internalCycle.mappings = s.mappings := rfl
@[simp] theorem internalCycle_mem : s.internalCycle.mem = s.mem := rfl
@[simp] theorem internalCycle_diagnostics : s.internalCycle.diagnostics = s.diagnostics := rfl
@[simp] theorem internalCycle_signals : s.internalCycle.signals = s.signals := rfl
@[simp] theorem internalCycle_trace : s.internalCycle.trace = .internalCycle :: s.trace := rfl
@[simp] theorem internalCycle_cfg : s.internalCycle.cfg = s.cfg := rfl
@[simp] theorem internalCycle_deviceAt (adr : Word) : s.internalCycle.deviceAt adr = s.deviceAt adr := rfl

/-! ## advancePc -/

@[simp] theorem advancePc_a : s.advancePc.a = s.a := rfl
@[simp] theorem advancePc_x : s.advancePc.x = s.x := rfl
@[simp] theorem advancePc_y : s.advancePc.y = s.y := rfl
@[simp] theorem advancePc_sp : s.advancePc.sp = s.sp := rfl
@[simp] theorem advancePc_pc : s.advancePc.pc = s.pc + 1 := rfl
@[simp] theorem advancePc_flags : s.advancePc.flags = s.flags := rfl
@[simp] theorem advancePc_irqLine : s.advancePc.irqLine = s.irqLine := rfl
@[simp] theorem advancePc_nmiPending : s.advancePc.nmiPending = s.nmiPending := rfl
@[simp] theorem advancePc_brkFlag : s.advancePc.brkFlag = s.brkFlag := rfl
@[simp] theorem advancePc_fsm : s.advancePc.fsm = s.fsm := rfl
@[simp] theorem advancePc_latches : s.advancePc.latches = s.latches := rfl
@[simp] theorem advancePc_mappings : s.advancePc.mappings = s.mappings := rfl
@[simp] theorem advancePc_mem : s.advancePc.mem = s.mem := rfl
@[simp] theorem advancePc_diagnostics : s.advancePc.diagnostics = s.diagnostics := rfl
@[simp] theorem advancePc_signals : s.advancePc.signals = s.signals := rfl
@[simp] theorem advancePc_trace : s.advancePc.trace = s.trace := rfl
@[simp] theorem advancePc_cfg : s.advancePc.cfg = s.cfg := rfl
@[simp] theorem advancePc_busValue (adr : Word) : s.advancePc.busValue adr = s.busValue adr := rfl
@[simp] theorem advancePc_deviceAt (adr : Word) : s.advancePc.deviceAt adr = s.deviceAt adr := rfl

/-! ## fetchByte -/

@[simp] theorem fetchByte_a : s.fetchByte.a = s.a := rfl
@[simp] theorem fetchByte_x : s.fetchByte.x = s.x := rfl
@[simp] theorem fetchByte_y : s.fetchByte.y = s.y := rfl
@[simp] theorem fetchByte_sp : s.fetchByte.sp = s.sp := rfl
@[simp] theorem fetchByte_pc : s.fetchByte.pc = s.pc + 1 := rfl
@[simp] theorem fetchByte_flags : s.fetchByte.flags = s.flags := rfl
@[simp] theorem fetchByte_irqLine : s.fetchByte.irqLine = s.irqLine := rfl
@[simp] theorem fetchByte_nmiPending : s.fetchByte.nmiPending = s.nmiPending := rfl
@[simp] theorem fetchByte_brkFlag : s.fetchByte.brkFlag = s.brkFlag := rfl
@[simp] theorem fetchByte_fsm : s.fetchByte.fsm = s.fsm := rfl
@[simp] theorem fetchByte_latches : s.fetchByte.latches = s.latches := rfl
@[simp] theorem fetchByte_mappings : s.fetchByte.mappings = s.mappings := rfl
@[simp] theorem fetchByte_mem : s.fetchByte.mem = s.mem := rfl
@[simp] theorem fetchByte_diagnostics : s.fetchByte.diagnostics = s.diagnosticsAfter (.read s.pc) s.pc := rfl
@[simp] theorem fetchByte_signals : s.fetchByte.signals = s.signals := rfl
@[simp] theorem fetchByte_trace : s.fetchByte.trace = .readOperand s.pc (s.busValue s.pc) :: s.trace := rfl
@[simp] theorem fetchByte_cfg : s.fetchByte.cfg = s.cfg := rfl
@[simp] theorem fetchByte_deviceAt (adr : Word) : s.fetchByte.deviceAt adr = s.deviceAt adr := rfl

/-! ## push -/

@[simp] theorem push_a (v : Byte) : (s.push v).a = s.a := rfl
@[simp] theorem push_x (v : Byte) : (s.push v).x = s.x := rfl
@[simp] theorem push_y (v : Byte) : (s.push v).y = s.y := rfl
@[simp] theorem push_sp (v : Byte) : (s.push v).sp = s.sp - 1 := rfl
@[simp] theorem push_pc (v : Byte) : (s.push v).pc = s.pc := rfl
@[simp] theorem push_flags (v : Byte) : (s.push v).flags = s.flags := rfl
@[simp] theorem push_irqLine (v : Byte) : (s.push v).irqLine = s.irqLine := rfl
@[simp] theorem push_nmiPending (v : Byte) : (s.push v).nmiPending = s.nmiPending := rfl
@[simp] theorem push_brkFlag (v : Byte) : (s.push v).brkFlag = s.brkFlag := rfl
@[simp] theorem push_fsm (v : Byte) : (s.push v).fsm = s.fsm := rfl
@[simp] theorem push_latches (v : Byte) : (s.push v).latches = s.latches := rfl
@[simp] theorem push_mappings (v : Byte) : (s.push v).mappings = s.mappings := rfl
@[simp] theorem push_mem (v : Byte) : (s.push v).mem = s.memAfterWrite (stackAddress s.sp) v := rfl
@[simp] theorem push_diagnostics (v : Byte) : (s.push v).diagnostics = s.diagnosticsAfter (.write (stackAddress s.sp) v) (stackAddress s.sp) := rfl
@[simp] theorem push_signals (v : Byte) : (s.push v).signals = s.signals := rfl
@[simp] theorem push_trace (v : Byte) : (s.push v).trace = .writeOperand (stackAddress s.sp) v :: s.trace := rfl
@[simp] theorem push_cfg (v : Byte) : (s.push v).cfg = s.cfg := rfl
@[simp] theorem push_deviceAt (v : Byte) (adr : Word) : (s.push v).deviceAt adr = s.deviceAt adr := rfl

/-! ## popSp -/

@[simp] theorem popSp_a : s.popSp.a = s.a := rfl
@[simp] theorem popSp_x : s.popSp.x = s.x := rfl
@[simp] theorem popSp_y : s.popSp.y = s.y := rfl
@[simp] theorem popSp_sp : s.popSp.sp = s.sp + 1 := rfl
@[simp] theorem popSp_pc : s.popSp.pc = s.pc := rfl
@[simp] theorem popSp_flags : s.popSp.flags = s.flags := rfl
@[simp] theorem popSp_irqLine : s.popSp.irqLine = s.irqLine := rfl
@[simp] theorem popSp_nmiPending : s.popSp.nmiPending = s.nmiPending := rfl
@[simp] theorem popSp_brkFlag : s.popSp.brkFlag = s.brkFlag := rfl
@[simp] theorem popSp_fsm : s.popSp.fsm = s.fsm := rfl
@[simp] theorem popSp_latches : s.popSp.latches = s.latches := rfl
@[simp] theorem popSp_mappings : s.popSp.mappings = s.mappings := rfl
@[simp] theorem popSp_mem : s.popSp.mem = s.mem := rfl
@[simp] theorem popSp_diagnostics : s.popSp.diagnostics = s.diagnostics := rfl
@[simp] theorem popSp_signals : s.popSp.signals = s.signals := rfl
@[simp] theorem popSp_trace : s.popSp.trace = s.trace := rfl
@[simp] theorem popSp_cfg : s.popSp.cfg = s.cfg := rfl
@[simp] theorem popSp_busValue (adr : Word) : s.popSp.busValue adr = s.busValue adr := rfl
@[simp] theorem popSp_deviceAt (adr : Word) : s.popSp.deviceAt adr = s.deviceAt adr := rfl

/-! ## readStack -/

@[simp] theorem readStack_a : s.readStack.a = s.a := rfl
@[simp] theorem readStack_x : s.readStack.x = s.x := rfl
@[simp] theorem readStack_y : s.readStack.y = s.y := rfl
@[simp] theorem readStack_sp : s.readStack.sp = s.sp := rfl
@[simp] theorem readStack_pc : s.readStack.pc = s.pc := rfl
@[simp] theorem readStack_flags : s.readStack.flags = s.flags := rfl
@[simp] theorem readStack_irqLine : s.readStack.irqLine = s.irqLine := rfl
@[simp] theorem readStack_nmiPending : s.readStack.nmiPending = s.nmiPending := rfl
@[simp] theorem readStack_brkFlag : s.readStack.brkFlag = s.brkFlag := rfl
@[simp] theorem readStack_fsm : s.readStack.fsm = s.fsm := rfl
@[simp] theorem readStack_latches : s.readStack.latches = s.latches := rfl
@[simp] theorem readStack_mappings : s.readStack.mappings = s.mappings := rfl
@[simp] theorem readStack_mem : s.readStack.mem = s.mem := rfl
@[simp] theorem readStack_diagnostics : s.readStack.diagnostics = s.diagnosticsAfter (.read (stackAddress s.sp)) (stackAddress s.sp) := rfl
@[simp] theorem readStack_signals : s.readStack.signals = s.signals := rfl
@[simp] theorem readStack_trace : s.readStack.trace = .readOperand (stackAddress s.sp) s.stackTop :: s.trace := rfl
@[simp] theorem readStack_cfg : s.readStack.cfg = s.cfg := rfl
@[simp] theorem readStack_deviceAt (adr : Word) : s.readStack.deviceAt adr = s.deviceAt adr := rfl

/-! ## endInstruction -/

@[simp] theorem endInstruction_a : s.endInstruction.a = s.a := rfl
@[simp] theorem endInstruction_x : s.endInstruction.x = s.x := rfl
@[simp] theorem endInstruction_y : s.endInstruction.y = s.y := rfl
@[simp] theorem endInstruction_sp : s.endInstruction.sp = s.sp := rfl
@[simp] theorem endInstruction_pc : s.endInstruction.pc = s.pc := rfl
@[simp] theorem endInstruction_flags : s.endInstruction.flags = s.flags := rfl
@[simp] theorem endInstruction_irqLine : s.endInstruction.irqLine = s.irqLine := rfl
@[simp] theorem endInstruction_nmiPending : s.endInstruction.nmiPending = s.nmiPending := rfl
@[simp] theorem endInstruction_brkFlag : s.endInstruction.brkFlag = false := rfl
@[simp] theorem endInstruction_fsm : s.endInstruction.fsm = .fetch := rfl
@[simp] theorem endInstruction_latches : s.endInstruction.latches = Latches.dead := rfl
@[simp] theorem endInstruction_mappings : s.endInstruction.mappings = s.mappings := rfl
@[simp] theorem endInstruction_mem : s.endInstruction.mem = s.mem := rfl
@[simp] theorem endInstruction_diagnostics : s.endInstruction.diagnostics = s.diagnostics := rfl
@[simp] theorem endInstruction_signals : s.endInstruction.signals = s.signals := rfl
@[simp] theorem endInstruction_trace : s.endInstruction.trace = s.trace := rfl
@[simp] theorem endInstruction_cfg : s.endInstruction.cfg = s.cfg := rfl
@[simp] theorem endInstruction_busValue (adr : Word) : s.endInstruction.busValue adr = s.busValue adr := rfl
@[simp] theorem endInstruction_deviceAt (adr : Word) : s.endInstruction.deviceAt adr = s.deviceAt adr := rfl

/-! ## loadA -/

@[simp] theorem loadA_a (v : Byte) : (State.loadA v s).a = v := rfl
@[simp] theorem loadA_x (v : Byte) : (State.loadA v s).x = s.x := rfl
@[simp] theorem loadA_y (v : Byte) : (State.loadA v s).y = s.y := rfl
@[simp] theorem loadA_sp (v : Byte) : (State.loadA v s).sp = s.sp := rfl
@[simp] theorem loadA_pc (v : Byte) : (State.loadA v s).pc = s.pc := rfl
@[simp] theorem loadA_flags (v : Byte) : (State.loadA v s).flags = s.flags.setNZ v := rfl
@[simp] theorem loadA_irqLine (v : Byte) : (State.loadA v s).irqLine = s.irqLine := rfl
@[simp] theorem loadA_nmiPending (v : Byte) : (State.loadA v s).nmiPending = s.nmiPending := rfl
@[simp] theorem loadA_brkFlag (v : Byte) : (State.loadA v s).brkFlag = s.brkFlag := rfl
@[simp] theorem loadA_fsm (v : Byte) : (State.loadA v s).fsm = s.fsm := rfl
@[simp] theorem loadA_latches (v : Byte) : (State.loadA v s).latches = s.latches := rfl
@[simp] theorem loadA_mappings (v : Byte) : (State.loadA v s).mappings = s.mappings := rfl
@[simp] theorem loadA_mem (v : Byte) : (State.loadA v s).mem = s.mem := rfl
@[simp] theorem loadA_diagnostics (v : Byte) : (State.loadA v s).diagnostics = s.diagnostics := rfl
@[simp] theorem loadA_signals (v : Byte) : (State.loadA v s).signals = s.signals := rfl
@[simp] theorem loadA_trace (v : Byte) : (State.loadA v s).trace = s.trace := rfl
@[simp] theorem loadA_cfg (v : Byte) : (State.loadA v s).cfg = s.cfg := rfl
@[simp] theorem loadA_busValue (v : Byte) (adr : Word) : (State.loadA v s).busValue adr = s.busValue adr := rfl
@[simp] theorem loadA_deviceAt (v : Byte) (adr : Word) : (State.loadA v s).deviceAt adr = s.deviceAt adr := rfl

/-! ## loadX -/

@[simp] theorem loadX_a (v : Byte) : (State.loadX v s).a = s.a := rfl
@[simp] theorem loadX_x (v : Byte) : (State.loadX v s).x = v := rfl
@[simp] theorem loadX_y (v : Byte) : (State.loadX v s).y = s.y := rfl
@[simp] theorem loadX_sp (v : Byte) : (State.loadX v s).sp = s.sp := rfl
@[simp] theorem loadX_pc (v : Byte) : (State.loadX v s).pc = s.pc := rfl
@[simp] theorem loadX_flags (v : Byte) : (State.loadX v s).flags = s.flags.setNZ v := rfl
@[simp] theorem loadX_irqLine (v : Byte) : (State.loadX v s).irqLine = s.irqLine := rfl
@[simp] theorem loadX_nmiPending (v : Byte) : (State.loadX v s).nmiPending = s.nmiPending := rfl
@[simp] theorem loadX_brkFlag (v : Byte) : (State.loadX v s).brkFlag = s.brkFlag := rfl
@[simp] theorem loadX_fsm (v : Byte) : (State.loadX v s).fsm = s.fsm := rfl
@[simp] theorem loadX_latches (v : Byte) : (State.loadX v s).latches = s.latches := rfl
@[simp] theorem loadX_mappings (v : Byte) : (State.loadX v s).mappings = s.mappings := rfl
@[simp] theorem loadX_mem (v : Byte) : (State.loadX v s).mem = s.mem := rfl
@[simp] theorem loadX_diagnostics (v : Byte) : (State.loadX v s).diagnostics = s.diagnostics := rfl
@[simp] theorem loadX_signals (v : Byte) : (State.loadX v s).signals = s.signals := rfl
@[simp] theorem loadX_trace (v : Byte) : (State.loadX v s).trace = s.trace := rfl
@[simp] theorem loadX_cfg (v : Byte) : (State.loadX v s).cfg = s.cfg := rfl
@[simp] theorem loadX_busValue (v : Byte) (adr : Word) : (State.loadX v s).busValue adr = s.busValue adr := rfl
@[simp] theorem loadX_deviceAt (v : Byte) (adr : Word) : (State.loadX v s).deviceAt adr = s.deviceAt adr := rfl

/-! ## loadY -/

@[simp] theorem loadY_a (v : Byte) : (State.loadY v s).a = s.a := rfl
@[simp] theorem loadY_x (v : Byte) : (State.loadY v s).x = s.x := rfl
@[simp] theorem loadY_y (v : Byte) : (State.loadY v s).y = v := rfl
@[simp] theorem loadY_sp (v : Byte) : (State.loadY v s).sp = s.sp := rfl
@[simp] theorem loadY_pc (v : Byte) : (State.loadY v s).pc = s.pc := rfl
@[simp] theorem loadY_flags (v : Byte) : (State.loadY v s).flags = s.flags.setNZ v := rfl
@[simp] theorem loadY_irqLine (v : Byte) : (State.loadY v s).irqLine = s.irqLine := rfl
@[simp] theorem loadY_nmiPending (v : Byte) : (State.loadY v s).nmiPending = s.nmiPending := rfl
@[simp] theorem loadY_brkFlag (v : Byte) : (State.loadY v s).brkFlag = s.brkFlag := rfl
@[simp] theorem loadY_fsm (v : Byte) : (State.loadY v s).fsm = s.fsm := rfl
@[simp] theorem loadY_latches (v : Byte) : (State.loadY v s).latches = s.latches := rfl
@[simp] theorem loadY_mappings (v : Byte) : (State.loadY v s).mappings = s.mappings := rfl
@[simp] theorem loadY_mem (v : Byte) : (State.loadY v s).mem = s.mem := rfl
@[simp] theorem loadY_diagnostics (v : Byte) : (State.loadY v s).diagnostics = s.diagnostics := rfl
@[simp] theorem loadY_signals (v : Byte) : (State.loadY v s).signals = s.signals := rfl
@[simp] theorem loadY_trace (v : Byte) : (State.loadY v s).trace = s.trace := rfl
@[simp] theorem loadY_cfg (v : Byte) : (State.loadY v s).cfg = s.cfg := rfl
@[simp] theorem loadY_busValue (v : Byte) (adr : Word) : (State.loadY v s).busValue adr = s.busValue adr := rfl
@[simp] theorem loadY_deviceAt (v : Byte) (adr : Word) : (State.loadY v s).deviceAt adr = s.deviceAt adr := rfl

/-! ## latch -/

@[simp] theorem latch_a (f : Latches → Latches) : (s.latch f).a = s.a := rfl
@[simp] theorem latch_x (f : Latches → Latches) : (s.latch f).x = s.x := rfl
@[simp] theorem latch_y (f : Latches → Latches) : (s.latch f).y = s.y := rfl
@[simp] theorem latch_sp (f : Latches → Latches) : (s.latch f).sp = s.sp := rfl
@[simp] theorem latch_pc (f : Latches → Latches) : (s.latch f).pc = s.pc := rfl
@[simp] theorem latch_flags (f : Latches → Latches) : (s.latch f).flags = s.flags := rfl
@[simp] theorem latch_irqLine (f : Latches → Latches) : (s.latch f).irqLine = s.irqLine := rfl
@[simp] theorem latch_nmiPending (f : Latches → Latches) : (s.latch f).nmiPending = s.nmiPending := rfl
@[simp] theorem latch_brkFlag (f : Latches → Latches) : (s.latch f).brkFlag = s.brkFlag := rfl
@[simp] theorem latch_fsm (f : Latches → Latches) : (s.latch f).fsm = s.fsm := rfl
@[simp] theorem latch_latches (f : Latches → Latches) : (s.latch f).latches = f s.latches := rfl
@[simp] theorem latch_mappings (f : Latches → Latches) : (s.latch f).mappings = s.mappings := rfl
@[simp] theorem latch_mem (f : Latches → Latches) : (s.latch f).mem = s.mem := rfl
@[simp] theorem latch_diagnostics (f : Latches → Latches) : (s.latch f).diagnostics = s.diagnostics := rfl
@[simp] theorem latch_signals (f : Latches → Latches) : (s.latch f).signals = s.signals := rfl
@[simp] theorem latch_trace (f : Latches → Latches) : (s.latch f).trace = s.trace := rfl
@[simp] theorem latch_cfg (f : Latches → Latches) : (s.latch f).cfg = s.cfg := rfl
@[simp] theorem latch_busValue (f : Latches → Latches) (adr : Word) : (s.latch f).busValue adr = s.busValue adr := rfl
@[simp] theorem latch_deviceAt (f : Latches → Latches) (adr : Word) : (s.latch f).deviceAt adr = s.deviceAt adr := rfl

end Sys2Proof.Machine
end

