-- ==== Sys2Proof/Laws/Cycle.lean ====
section
/-! SUPPORT. The cycle machine, one cycle at a time: what a row with more cycles, the last row and an accepted interrupt do to a
run of cycles, and the first cycle of an instruction. A proof about an instruction's cycles cites these row by row. -/

namespace Sys2Proof.Machine

/-- The seven cycles of an interrupt entry are the entry sequence (R162). -/
theorem runCycles_interrupt (n : Nat) (s : State) (hf : s.fsm = .interrupt) (ht : s.latches.t = 1) :
    runCycles (n + 7) s = .next s.interruptSequence := by
  obtain ⟨a, x, y, sp, pc, flags, irq, nmi, brk, fsm, ⟨ir, t, lo, hi, zp, ea, unc, cross, m, taken, tl, vec⟩, maps, mem,
    diag, sig, trace, cfg⟩ := s
  subst hf
  subst ht
  rfl

theorem runCycles_accept (n : Nat) (u : State) (v : Word) :
    runCycles (n + 7) (u.accept v) = .next (u.accept v).interruptSequence := runCycles_interrupt n _ rfl rfl

/-- InterruptCheck either accepts an interrupt or does nothing (R104). -/
theorem interruptCheck_cases (u : State) :
    (∃ w v, u.interruptCheck = State.accept w v) ∨ u.interruptCheck = u := by
  unfold State.interruptCheck
  split
  · exact .inl ⟨_, _, rfl⟩
  · split
    · exact .inl ⟨_, _, rfl⟩
    · exact .inr rfl

/-- The last cycle of an instruction, with InterruptCheck and the entry it triggers (R104, R105). -/
theorem runCycles_of_last (n : Nat) (s u : State) (h : stepCycle s = .next u.endInstruction.interruptCheck) :
    runCycles (n + 8) s = .next u.endInstruction.serviceInterrupts := by
  rw [runCycles, h]
  rcases interruptCheck_cases u.endInstruction with ⟨w, v, hw⟩ | hw
  · have hb : (w.accept v).atBoundary = false := rfl
    have hf : (w.accept v).fsm = .interrupt := rfl
    simp only [State.serviceInterrupts, hw, hb, hf, runCycles_accept, Bool.false_eq_true, if_false, if_true]
  · have hb : u.endInstruction.atBoundary = true := rfl
    simp [State.serviceInterrupts, hw, hb]

/-- A row of a template after which more cycles follow (R104). -/
theorem runCycles_of_more {s s' : State} (n : Nat) {e : Entry} (hf : s.fsm = .execute) (he : optab s.latches.ir = e)
    (h : executeCycle e.kind e.mode s = .more s') (hf' : s'.fsm = .execute) :
    runCycles (n + 1) s = runCycles n s'.nextCycle := by
  have hs : stepCycle s = .next s'.nextCycle := by
    simp only [stepCycle, hf, he, h, Cycle.outcome]
  have hb : s'.nextCycle.atBoundary = false := by
    simp [State.atBoundary, State.nextCycle, hf']
  simp only [runCycles, hs, hb, Bool.false_eq_true, if_false]

/-- The last row of a template (R104). -/
theorem runCycles_of_end {s u : State} (n : Nat) {e : Entry} (hf : s.fsm = .execute) (he : optab s.latches.ir = e)
    (h : executeCycle e.kind e.mode s = .last u) :
    runCycles (n + 8) s = .next u.endInstruction.serviceInterrupts := by
  apply runCycles_of_last
  simp only [stepCycle, hf, he, h, Cycle.outcome]

/-- The first cycle of a documented instruction (R104, R141). -/
theorem stepCycle_fetch {s : State} (hf : s.fsm = .fetch) (hk : (optab (s.busValue s.pc)).kind ≠ .ill) :
    stepCycle s =
      .next
        { s.fetchOpcode.advancePc with
          fsm := .execute
          latches := { Latches.dead with ir := s.busValue s.pc, t := 2 }
          brkFlag := (optab (s.busValue s.pc)).kind == .brk } := by
  simp only [stepCycle, hf, fetchCycle, hk, if_false]

/-- `execute_instruction` from a fetch boundary, after that cycle (R105). -/
theorem executeInstruction_fetch {s : State} (hf : s.fsm = .fetch) (hk : (optab (s.busValue s.pc)).kind ≠ .ill) :
    executeInstruction s =
      runCycles 13
        { s.fetchOpcode.advancePc with
          fsm := .execute
          latches := { Latches.dead with ir := s.busValue s.pc, t := 2 }
          brkFlag := (optab (s.busValue s.pc)).kind == .brk } := by
  simp only [executeInstruction, hf]
  rw [runCycles, stepCycle_fetch hf hk]
  simp [State.atBoundary]

end Sys2Proof.Machine
end

