-- ==== Sys2Proof/Laws/Decode.lean ====
section
/-! SUPPORT. The byte-order helpers as numbers; the two tables of the encoding agree, checked entry by entry, and what that gives
about the decoder. -/

namespace Sys2Proof

/-- `hi:lo` as a number (R9). -/
theorem wordOf_toNat (h l : Byte) : (wordOf h l).toNat = 256 * h.toNat + l.toNat := by
  simp only [wordOf, BitVec.toNat_append]
  rw [← Nat.shiftLeft_add_eq_or_of_lt l.isLt, Nat.shiftLeft_eq]
  omega

theorem lowByte_toNat (w : Word) : (lowByte w).toNat = w.toNat % 256 := by simp [lowByte]

theorem highByte_toNat (w : Word) : (highByte w).toNat = w.toNat / 256 := by
  have := w.isLt
  simp [highByte, Nat.shiftRight_eq_div_pow]
  omega

theorem lowByte_wordOf (hi lo : Byte) : lowByte (wordOf hi lo) = lo := by
  apply BitVec.eq_of_toNat_eq
  rw [lowByte_toNat, wordOf_toNat]
  have := lo.isLt
  omega

theorem highByte_wordOf (hi lo : Byte) : highByte (wordOf hi lo) = hi := by
  apply BitVec.eq_of_toNat_eq
  rw [highByte_toNat, wordOf_toNat]
  have := lo.isLt
  omega

theorem wordOf_bytes (w : Word) : wordOf (highByte w) (lowByte w) = w := by
  apply BitVec.eq_of_toNat_eq
  rw [wordOf_toNat, lowByte_toNat, highByte_toNat]
  omega

/-- Every entry of the matrix names a filled cell of the table by mnemonic (R86). -/
theorem optab_mode_mem : ∀ op : Byte, (optab op).kind.modes.contains (optab op).mode = true := by decide +kernel

/-- The entries of kind ILL are the undefined bytes (R85, R88). -/
theorem optab_ill_iff : ∀ op : Byte, (optab op).kind = .ill ↔ undefinedOpcodes.contains op = true := by decide +kernel

/-- A defined byte is found in the table by mnemonic at its mode (R86). -/
theorem opcodes_find : ∀ op : Byte, (optab op).kind ≠ .ill →
    ((optab op).kind.opcodes.find? fun e => e.1 == (optab op).mode) = some ((optab op).mode, op) := by
  decide +kernel

/-- Every cell of the table by mnemonic is the entry of its byte in the matrix (R86). -/
theorem optab_of_opcodes (k : Kind) : ∀ e ∈ k.opcodes, (optab e.2).kind = k ∧ (optab e.2).mode = e.1 := by
  cases k <;> decide +kernel

/-- The cells of the table by mnemonic are the modes a kind has (R86). -/
theorem opcodes_modes (k : Kind) (h : k ≠ .ill) : k.opcodes.map Prod.fst = k.modes := by
  cases k <;> first | rfl | exact absurd rfl h

theorem operandOf_mode {m : Mode} (h1 : m ≠ .imp) (h2 : m ≠ .rel) (b1 b2 : Byte) : (operandOf m b1 b2).mode = m := by
  cases m <;> first | rfl | exact absurd rfl h1 | exact absurd rfl h2

/-- The decoder gives the kind of the table (R84). -/
theorem assemble_kind (k : Kind) (m : Mode) (b0 b1 b2 : Byte) : (assemble k m b0 b1 b2).kind = k := by
  cases k <;> rfl

/-- The decoder gives the mode of the table (R84, R86). -/
theorem assemble_mode {k : Kind} {m : Mode} (h : k.modes.contains m = true) (b0 b1 b2 : Byte) :
    (assemble k m b0 b1 b2).mode = m := by
  cases k <;> cases m <;> first | rfl | exact absurd h (by decide)

end Sys2Proof
end

