-- ==== Sys2Proof/Laws/Memory.lean ====
section
/-! SUPPORT. The laws of memory contents: a write is read back and leaves every other address alone, every operation keeps the
canonical form, and canonical contents that read alike are equal. -/

namespace Sys2Proof.Machine

@[simp] theorem Memory.read_nil (a : Nat) : Memory.read [] a = Memory.blank := rfl

theorem Memory.read_cons (b : Nat) (w : Byte) (rest : Memory) (a : Nat) :
    Memory.read ((b, w) :: rest) a = if b = a then w else Memory.read rest a := rfl

theorem Memory.wfFrom_cons (low b : Nat) (w : Byte) (rest : Memory) :
    Memory.wfFrom low ((b, w) :: rest) = true ↔
      low ≤ b ∧ b < 65536 ∧ w ≠ Memory.blank ∧ Memory.wfFrom (b + 1) rest = true := by
  simp [Memory.wfFrom, and_assoc]

/-- Nothing is listed below the bound. -/
theorem Memory.read_below {low : Nat} {m : Memory} (h : Memory.wfFrom low m = true) {a : Nat} (ha : a < low) :
    m.read a = Memory.blank := by
  induction m generalizing low with
  | nil => rfl
  | cons c rest ih =>
    obtain ⟨b, w⟩ := c
    obtain ⟨hb, -, -, hr⟩ := (Memory.wfFrom_cons ..).1 h
    rw [Memory.read_cons, if_neg (by omega)]
    exact ih hr (by omega)

theorem Memory.wfFrom_mono {low low' : Nat} (hl : low' ≤ low) {m : Memory} (h : Memory.wfFrom low m = true) :
    Memory.wfFrom low' m = true := by
  cases m with
  | nil => rfl
  | cons c rest =>
    obtain ⟨b, w⟩ := c
    rw [Memory.wfFrom_cons] at h ⊢
    exact ⟨by omega, h.2⟩

theorem Memory.read_put (a : Nat) (v : Byte) (rest : Memory) (x : Nat) (h : a = x → rest.read x = Memory.blank) :
    (Memory.put a v rest).read x = if a = x then v else rest.read x := by
  unfold Memory.put
  by_cases hv : v = Memory.blank <;> by_cases ha : a = x <;> simp_all [Memory.read_cons]

/-- Reading after writing: the byte written at its address, the old byte elsewhere (R53). -/
theorem Memory.read_write {low : Nat} {m : Memory} (h : Memory.wfFrom low m = true) (a : Nat) (v : Byte) (x : Nat) :
    (m.write a v).read x = if a = x then v else m.read x := by
  induction m generalizing low with
  | nil => exact Memory.read_put a v [] x fun _ => rfl
  | cons c rest ih =>
    obtain ⟨b, w⟩ := c
    obtain ⟨hb, -, -, hr⟩ := (Memory.wfFrom_cons ..).1 h
    unfold Memory.write
    split
    · rename_i hab
      refine Memory.read_put a v _ x ?_
      rintro rfl
      rw [Memory.read_cons, if_neg (by omega)]
      exact Memory.read_below hr (by omega)
    · split
      · rename_i hab
        subst hab
        rw [Memory.read_put a v rest x (by rintro rfl; exact Memory.read_below hr (by omega)), Memory.read_cons]
        split <;> rfl
      · rename_i hab
        rw [Memory.read_cons, Memory.read_cons, ih hr]
        by_cases h1 : b = x <;> by_cases h2 : a = x <;> simp [h1, h2]
        omega

theorem Memory.wfFrom_put {low : Nat} {rest : Memory} {a : Nat} (v : Byte) (hl : low ≤ a) (ha : a < 65536)
    (h : Memory.wfFrom (a + 1) rest = true) : Memory.wfFrom low (Memory.put a v rest) = true := by
  unfold Memory.put
  split
  · exact Memory.wfFrom_mono (by omega) h
  · rename_i hv
    exact (Memory.wfFrom_cons ..).2 ⟨hl, ha, hv, h⟩

/-- A write keeps the canonical form. -/
theorem Memory.wfFrom_write {low : Nat} {m : Memory} (h : Memory.wfFrom low m = true) {a : Nat} (v : Byte) (hl : low ≤ a)
    (ha : a < 65536) : Memory.wfFrom low (m.write a v) = true := by
  induction m generalizing low with
  | nil => exact Memory.wfFrom_put v hl ha rfl
  | cons c rest ih =>
    obtain ⟨b, w⟩ := c
    obtain ⟨hb, hb', hw, hr⟩ := (Memory.wfFrom_cons ..).1 h
    unfold Memory.write
    split
    · exact Memory.wfFrom_put v hl ha ((Memory.wfFrom_cons ..).2 ⟨by omega, hb', hw, hr⟩)
    · split
      · rename_i hab
        subst hab
        exact Memory.wfFrom_put v hl ha hr
      · exact (Memory.wfFrom_cons ..).2 ⟨hb, hb', hw, ih hr (by omega)⟩

theorem Memory.wf_write {m : Memory} (h : m.wf = true) (a : Word) (v : Byte) : (m.write a.toNat v).wf = true :=
  Memory.wfFrom_write h v (Nat.zero_le _) a.isLt

theorem Memory.read_write_self {m : Memory} (h : m.wf = true) (a : Nat) (v : Byte) : (m.write a v).read a = v := by
  rw [Memory.read_write h, if_pos rfl]

theorem Memory.read_write_other {m : Memory} (h : m.wf = true) {a x : Nat} (v : Byte) (hx : a ≠ x) :
    (m.write a v).read x = m.read x := by
  rw [Memory.read_write h, if_neg hx]

/-- What a bus write leaves in the device memory keeps the canonical form (R57). -/
theorem State.memAfterWrite_wf {s : State} (h : s.mem.wf = true) (a : Word) (v : Byte) : (s.memAfterWrite a v).wf = true := by
  unfold State.memAfterWrite
  split
  · exact Memory.wf_write h a v
  · exact h
  · exact h
  · exact h

/-- A bus write changes at most the byte at its own address (R57). -/
theorem State.memAfterWrite_other {s : State} (h : s.mem.wf = true) {a : Word} (v : Byte) {x : Nat} (hx : a.toNat ≠ x) :
    (s.memAfterWrite a v).read x = s.mem.read x := by
  unfold State.memAfterWrite
  split
  · exact Memory.read_write_other h v hx
  · rfl
  · rfl
  · rfl

/-- A bus write to a RAM stores the byte (R53, R57). -/
theorem State.memAfterWrite_ram {s : State} (h : s.mem.wf = true) {a : Word} (hd : s.deviceAt a = some .ram) (v : Byte) :
    (s.memAfterWrite a v).read a.toNat = v := by
  simp only [State.memAfterWrite, hd]
  exact Memory.read_write_self h _ v

end Sys2Proof.Machine
end

