-- ==== Sys2Proof/Laws/Operands.lean ====
section
/-! SUPPORT. What the resolver and the three access classes can do, said once: the resolver changes nothing but the two logs,
and a class on a form the instruction has answers a next state with its operation applied. -/

namespace Sys2Proof.Machine

/-- The second state is the first after some bus reads and internal cycles: only the two logs have grown. -/
def BusOnly (s t : State) : Prop :=
  ∃ tr dg, t = { s with trace := tr ++ s.trace, diagnostics := dg ++ s.diagnostics }

theorem BusOnly.refl (s : State) : BusOnly s s := ⟨[], [], rfl⟩

theorem BusOnly.trans {s t u : State} (h : BusOnly s t) (h' : BusOnly t u) : BusOnly s u := by
  obtain ⟨a, b, rfl⟩ := h
  obtain ⟨c, d, rfl⟩ := h'
  exact ⟨c ++ a, d ++ b, by simp⟩

/-- One access adds at most one diagnostic event (R58). -/
theorem diagnosticsAfter_suffix (s : State) (e : BusAccess) (a : Word) :
    ∃ l, s.diagnosticsAfter e a = l ++ s.diagnostics := by
  unfold State.diagnosticsAfter
  split
  · exact ⟨[e], rfl⟩
  · exact ⟨[], rfl⟩

theorem busOnly_readCycle (s : State) (step : Word → Byte → MicroStep) (a : Word) : BusOnly s (s.readCycle step a) := by
  obtain ⟨l, h⟩ := diagnosticsAfter_suffix s (.read a) a
  exact ⟨[step a (s.busValue a)], l, by rw [← h]; rfl⟩

theorem busOnly_readOperand (s : State) (a : Word) : BusOnly s (s.readOperand a) := busOnly_readCycle ..

theorem busOnly_dummyRead (s : State) (a : Word) : BusOnly s (s.dummyRead a) := busOnly_readCycle ..

theorem busOnly_fetchOpcode (s : State) : BusOnly s s.fetchOpcode := busOnly_readCycle ..

theorem busOnly_internalCycle (s : State) : BusOnly s s.internalCycle := ⟨[.internalCycle], [], rfl⟩

theorem busOnly_readPointer (s : State) (b : Byte) : BusOnly s (s.readPointer b) :=
  (busOnly_readOperand ..).trans (busOnly_readOperand ..)

theorem busOnly_readIndirect (s : State) (p : Word) : BusOnly s (s.readIndirect p) :=
  (busOnly_readOperand ..).trans (busOnly_readOperand ..)

/-- The resolver writes no register and no memory (R120). -/
theorem resolve_busOnly {o : Operand} {s : State} {r : Resolution} (h : resolve o s = some r) : BusOnly s r.after := by
  cases o <;> simp only [resolve, Option.some.injEq, reduceCtorEq] at h <;> subst h
  · exact BusOnly.refl s
  · exact busOnly_dummyRead ..
  · exact busOnly_dummyRead ..
  · exact BusOnly.refl s
  · exact BusOnly.refl s
  · exact BusOnly.refl s
  · exact (busOnly_dummyRead ..).trans (busOnly_readPointer ..)
  · exact busOnly_readPointer ..

theorem Resolution.beforeRead_busOnly (r : Resolution) : BusOnly r.after r.beforeRead := by
  unfold Resolution.beforeRead
  split
  · split
    · exact busOnly_dummyRead ..
    · exact BusOnly.refl _
  · exact BusOnly.refl _

theorem Resolution.beforeWrite_busOnly (r : Resolution) : BusOnly r.after r.beforeWrite := by
  unfold Resolution.beforeWrite
  split
  · exact busOnly_dummyRead ..
  · exact BusOnly.refl _

/-- The operand forms that stand for a byte of memory. -/
theorem resolve_isSome {o : Operand} (s : State) (ha : o ≠ .acc) (hi : ∀ b, o ≠ .imm b) (hp : ∀ w, o ≠ .ind w) :
    ∃ r, resolve o s = some r := by
  cases o <;> simp_all [resolve]

/-- The read class on a form the instruction has (R144): the operand byte is read and the operation commits. -/
theorem readClass_next {k : Kind} {o : Operand} {s : State} (op : Byte → State → State)
    (hk : k.modes.contains o.mode = true) (ha : o ≠ .acc) (hp : ∀ w, o ≠ .ind w) :
    ∃ u, BusOnly s u ∧ readClass k o op s = .next (op (operandByte o s) u).endInstruction := by
  unfold readClass ifFormed
  rw [if_pos hk]
  by_cases hi : ∃ b, o = .imm b
  · obtain ⟨b, rfl⟩ := hi
    exact ⟨s, BusOnly.refl s, rfl⟩
  · have hi : ∀ b, o ≠ .imm b := fun b h => hi ⟨b, h⟩
    obtain ⟨r, hr⟩ := resolve_isSome s ha hi hp
    have hu : BusOnly s r.read :=
      ((resolve_busOnly hr).trans r.beforeRead_busOnly).trans (busOnly_readOperand ..)
    refine ⟨r.read, hu, ?_⟩
    cases o <;> simp_all [operandByte, done]

/-- The write class on a form the instruction has (R144). -/
theorem writeClass_next {k : Kind} {o : Operand} {s : State} {r : Resolution} (v : Byte)
    (hk : k.modes.contains o.mode = true) (hr : resolve o s = some r) :
    writeClass k o v s = .next (r.beforeWrite.writeOperand r.ea v).endInstruction := by
  unfold writeClass ifFormed
  rw [if_pos hk, hr]
  rfl

/-- The read-modify-write class on a memory form the instruction has (R144). -/
theorem modifyClass_next {k : Kind} {o : Operand} {s : State} {r : Resolution} (op : ModifyOp)
    (hk : k.modes.contains o.mode = true) (hr : resolve o s = some r) :
    modifyClass k o op s = .next (op.onMemory r).endInstruction := by
  unfold modifyClass ifFormed
  rw [if_pos hk]
  cases o <;> simp_all [resolve, done]

/-- The Accumulator form (R145, R220). -/
theorem modifyClass_acc {k : Kind} (op : ModifyOp) (s : State) (hk : k.modes.contains .acc = true) :
    modifyClass k .acc op s = .next (op.onAccumulator s).endInstruction := by
  unfold modifyClass ifFormed
  exact if_pos hk

/-- A form the instruction does not have (R86). -/
theorem ifFormed_refused {k : Kind} {m : Mode} (run : Host.Outcome State Fault Refusal) (hk : k.modes.contains m = false) :
    ifFormed k m run = .refused .noSuchForm := by
  unfold ifFormed
  rw [hk]
  rfl

/-- A bus write changes only memory and the two logs. -/
theorem writeOperand_eq (s : State) (a : Word) (v : Byte) :
    ∃ l, s.writeOperand a v =
      { s with trace := .writeOperand a v :: s.trace, mem := s.memAfterWrite a v, diagnostics := l ++ s.diagnostics } := by
  obtain ⟨l, h⟩ := diagnosticsAfter_suffix s (.write a v) a
  exact ⟨l, by rw [← h]; rfl⟩

/-- What a bus write leaves, byte by byte (R53, R57). -/
theorem storesByte_writeOperand {s : State} (h : s.mem.wf = true) (a : Word) (v : Byte) :
    storesByte s (s.writeOperand a v) a v := by
  constructor
  · show (s.memAfterWrite a v).read a.toNat = if _ then _ else _
    unfold State.memAfterWrite
    split
    · rename_i hd; rw [if_pos hd]; exact Memory.read_write_self h ..
    · rename_i hd; rw [if_neg (by rw [hd]; simp)]
    · rename_i hd; rw [if_neg (by rw [hd]; simp)]
    · rename_i hd; rw [if_neg (by rw [hd]; simp)]
  · intro x hx
    exact State.memAfterWrite_other h v (Ne.symm hx)

/-- A branch completes at its target or at the next instruction (R153, R251). -/
theorem branchClass_next (cond : Bool) (off : Byte) (s : State) :
    ∃ u, BusOnly s u ∧
      branchClass cond off s =
        .next { u with pc := if cond then branchTarget s.pc off else s.pc }.endInstruction := by
  cases cond
  · exact ⟨s, BusOnly.refl s, rfl⟩
  · cases h : branchCrosses s.pc off
    · exact ⟨_, busOnly_internalCycle s, by simp [branchClass, h, done]⟩
    · exact ⟨_, (busOnly_internalCycle s).trans (busOnly_internalCycle _), by simp [branchClass, h, done]⟩

end Sys2Proof.Machine
end

