-- ==== Sys2Proof/Laws/Frames.lean ====
section
/-! SUPPORT. The frame of every shared operation as one relation: what the cycles of an instruction never touch, closed under
composition, and from it the frame and the completion of whole instructions; the entry through a vector and the return from it. -/

namespace Sys2Proof.Machine

/-- The second state is reached from the first by cycles of an instruction: lines, mappings, parameters and signals are the same,
and the two logs have only grown. -/
structure Cycles (s t : State) : Prop where
  irqLine : t.irqLine = s.irqLine
  nmiPending : t.nmiPending = s.nmiPending
  mappings : t.mappings = s.mappings
  cfg : t.cfg = s.cfg
  signals : t.signals = s.signals
  trace : s.trace <:+ t.trace
  diagnostics : s.diagnostics <:+ t.diagnostics

theorem Cycles.refl (s : State) : Cycles s s :=
  ⟨rfl, rfl, rfl, rfl, rfl, List.suffix_refl _, List.suffix_refl _⟩

theorem Cycles.trans {s t u : State} (h : Cycles s t) (h' : Cycles t u) : Cycles s u :=
  ⟨h'.1.trans h.1, h'.2.trans h.2, h'.3.trans h.3, h'.4.trans h.4, h'.5.trans h.5, h.6.trans h'.6, h.7.trans h'.7⟩

/-- A change of registers, flags, memory or sequencer alone. -/
theorem Cycles.of_eq {s t u : State} (h : Cycles s t) (h1 : u.irqLine = t.irqLine) (h2 : u.nmiPending = t.nmiPending)
    (h3 : u.mappings = t.mappings) (h4 : u.cfg = t.cfg) (h5 : u.signals = t.signals) (h6 : u.trace = t.trace)
    (h7 : u.diagnostics = t.diagnostics) : Cycles s u :=
  h.trans ⟨h1, h2, h3, h4, h5, h6 ▸ List.suffix_refl _, h7 ▸ List.suffix_refl _⟩

theorem BusOnly.cycles {s t : State} (h : BusOnly s t) : Cycles s t := by
  obtain ⟨tr, dg, rfl⟩ := h
  exact ⟨rfl, rfl, rfl, rfl, rfl, ⟨tr, rfl⟩, ⟨dg, rfl⟩⟩

theorem cycles_readOperand (s : State) (a : Word) : Cycles s (s.readOperand a) := (busOnly_readOperand s a).cycles

theorem cycles_internalCycle (s : State) : Cycles s s.internalCycle := (busOnly_internalCycle s).cycles

theorem cycles_writeOperand (s : State) (a : Word) (v : Byte) : Cycles s (s.writeOperand a v) := by
  obtain ⟨l, h⟩ := writeOperand_eq s a v
  rw [h]
  exact ⟨rfl, rfl, rfl, rfl, rfl, ⟨[_], rfl⟩, ⟨l, rfl⟩⟩

theorem cycles_push (s : State) (v : Byte) : Cycles s (s.push v) :=
  (cycles_writeOperand s _ v).of_eq rfl rfl rfl rfl rfl rfl rfl

theorem cycles_popSp (s : State) : Cycles s s.popSp := (Cycles.refl s).of_eq rfl rfl rfl rfl rfl rfl rfl

theorem cycles_readStack (s : State) : Cycles s s.readStack := cycles_readOperand s _

theorem cycles_pushStatus (s : State) : Cycles s s.pushStatus :=
  (cycles_push s _).of_eq rfl rfl rfl rfl rfl rfl rfl

theorem cycles_loadVector (s : State) (v : Word) : Cycles s (s.loadVector v) :=
  ((cycles_readOperand s v).trans (cycles_readOperand _ (v + 1))).of_eq rfl rfl rfl rfl rfl rfl rfl

theorem cycles_enterVector (s : State) (v : Word) : Cycles s (s.enterVector v) :=
  (((cycles_push s _).trans (cycles_push _ _)).trans (cycles_pushStatus _)).trans (cycles_loadVector _ v)

theorem cycles_returnFromInterrupt (s : State) : Cycles s s.returnFromInterrupt :=
  ((((((cycles_popSp s).trans (cycles_readStack _)).trans (cycles_popSp _)).trans (cycles_readStack _)).trans
    (cycles_popSp _)).trans (cycles_readStack _)).of_eq rfl rfl rfl rfl rfl rfl rfl

theorem cycles_jsrPush (s : State) : Cycles s s.jsrPush :=
  ((cycles_internalCycle s).trans (cycles_push _ _)).trans (cycles_push _ _)

/-- The frame of an instruction that has ended. -/
theorem Cycles.sameSystem {s t : State} (h : Cycles s t) : s.SameSystem t.endInstruction :=
  ⟨h.1, h.2, h.3, h.4, h.5, rfl, rfl, rfl, h.6, h.7⟩

/-- An instruction whose cycles write no memory completes. -/
theorem completes_of {i : Instr} {s u : State} {r : Registers} (h : exec i s = .next u.endInstruction) (hc : Cycles s u)
    (hm : u.mem = s.mem) (hr : u.registers = r) : Completes i s r :=
  ⟨_, h, hr, hc.sameSystem, fun x => by show u.mem.read x = _; rw [hm]⟩

/-- An instruction whose one write is its last cycle completes. -/
theorem completesStoring_of {i : Instr} {s u w : State} {r : Registers} {ea : Word} {v : Byte} (hw : s.mem.wf = true)
    (h : exec i s = .next w.endInstruction) (hc : Cycles s u) (hm : u.mem = s.mem)
    (hwm : w.mem = (u.writeOperand ea v).mem) (hwt : w.trace = (u.writeOperand ea v).trace)
    (hwc : Cycles (u.writeOperand ea v) w) (hr : w.registers = r) : CompletesStoring i s r ea v := by
  have hu : u.mem.wf = true := by rw [hm]; exact hw
  have hd : u.deviceAt ea = s.deviceAt ea := by unfold State.deviceAt; rw [hc.mappings]
  obtain ⟨h1, h2⟩ := storesByte_writeOperand hu ea v
  refine ⟨_, h, hr, ((hc.trans (cycles_writeOperand u ea v)).trans hwc).sameSystem, ⟨?_, fun x hx => ?_⟩, ?_⟩
  · show w.mem.read _ = _
    rw [hwm, ← hm, ← hd]
    exact h1
  · show w.mem.read _ = _
    rw [hwm, ← hm]
    exact h2 x hx
  · show w.trace.head? = _
    rw [hwt]
    rfl

/-- `setNZ` written out. -/
theorem withNZ_eq (f : Flags) (v : Byte) : withNZ f v = f.setNZ v := by
  have h : ∀ v : Byte, decide (128 ≤ v.toNat) = v.getLsbD 7 ∧ decide (v = 0) = (v == 0) := by decide +kernel
  unfold withNZ Flags.setNZ
  rw [(h v).1, (h v).2]

/-- A read from RAM or ROM gives the byte held (R53). -/
theorem busValue_backed {s : State} {a : Word} (h : memoryBacked s.mappings a = true) :
    s.busValue a = s.mem.read a.toNat := by
  unfold memoryBacked at h
  unfold State.busValue State.deviceAt
  split at h <;> simp_all

/-- What a read gives is what may be read there (R53, R56). -/
theorem readsAs_busValue (s : State) (a : Word) : s.ReadsAs s.mem a (s.busValue a) := by
  refine ⟨busValue_backed, fun h => ?_⟩
  unfold State.busValue State.deviceAt
  rw [h]

/-- The mappings, `OPEN_BUS` and the byte held decide what may be read. -/
theorem State.ReadsAs.of_eq {s t : State} {m n : Memory} {a : Word} {v : Byte} (h : t.ReadsAs n a v)
    (hm : t.mappings = s.mappings) (hc : t.cfg = s.cfg) (hr : n.read a.toNat = m.read a.toNat) : s.ReadsAs m a v := by
  unfold State.ReadsAs at h ⊢
  rwa [hm, hc, hr] at h

/-- The stack address as a number (R24). -/
theorem stackAddress_toNat (sp : Byte) : (stackAddress sp).toNat = 256 + sp.toNat := by
  revert sp
  decide +kernel

/-- Different stack pointers address different bytes. -/
theorem stackAddress_ne {a b : Byte} (h : a ≠ b) : (stackAddress a).toNat ≠ (stackAddress b).toNat := by
  rw [stackAddress_toNat, stackAddress_toNat]
  intro h'
  exact h (BitVec.eq_of_toNat_eq (by omega))

/-- A later store elsewhere leaves a stored byte. -/
theorem holds_of_read_eq {s t u : State} {ea : Word} {v : Byte} (h : holds s t ea v)
    (hu : u.mem.read ea.toNat = t.mem.read ea.toNat) : holds s u ea v := hu.trans h

/-- An earlier store elsewhere does not matter for a later one. -/
theorem holds_of_before_eq {s t u : State} {ea : Word} {v : Byte} (h : holds t u ea v) (hm : t.mappings = s.mappings)
    (hs : t.mem.read ea.toNat = s.mem.read ea.toNat) : holds s u ea v := by
  unfold holds at h ⊢
  rw [h, hs]
  unfold State.deviceAt
  rw [hm]

/-- The three pushes of an entry (R161, R162), as stores. -/
theorem three_pushes {s : State} (hw : s.mem.wf = true) (a b c : Byte) :
    let t := ((s.push a).push b).push c
    t.mem.wf = true ∧ holds s t (stackAddress s.sp) a ∧ holds s t (stackAddress (s.sp - 1)) b ∧
      holds s t (stackAddress (s.sp - 1 - 1)) c ∧
      ∀ x : Nat, x ≠ (stackAddress s.sp).toNat → x ≠ (stackAddress (s.sp - 1)).toNat →
        x ≠ (stackAddress (s.sp - 1 - 1)).toNat → t.mem.read x = s.mem.read x := by
  have h01 : s.sp ≠ s.sp - 1 := by bv_omega
  have h02 : s.sp ≠ s.sp - 1 - 1 := by bv_omega
  have h12 : s.sp - 1 ≠ s.sp - 1 - 1 := by bv_omega
  have w1 : (s.push a).mem.wf = true := State.memAfterWrite_wf hw ..
  have w2 : ((s.push a).push b).mem.wf = true := State.memAfterWrite_wf w1 ..
  obtain ⟨p1, q1⟩ := storesByte_writeOperand hw (stackAddress s.sp) a
  obtain ⟨p2, q2⟩ := storesByte_writeOperand w1 (stackAddress (s.sp - 1)) b
  obtain ⟨p3, q3⟩ := storesByte_writeOperand w2 (stackAddress (s.sp - 1 - 1)) c
  refine ⟨State.memAfterWrite_wf w2 .., ?_, ?_, ?_, ?_⟩
  · exact holds_of_read_eq (t := s.push a) p1 ((q3 _ (stackAddress_ne h02)).trans (q2 _ (stackAddress_ne h01)))
  · exact holds_of_before_eq (t := s.push a) (u := ((s.push a).push b).push c)
      (holds_of_read_eq (t := (s.push a).push b) p2 (q3 _ (stackAddress_ne h12))) rfl (q1 _ (stackAddress_ne h01.symm))
  · exact holds_of_before_eq (t := (s.push a).push b) p3 rfl
      ((q2 _ (stackAddress_ne h12.symm)).trans (q1 _ (stackAddress_ne h02.symm)))
  · intro x hx0 hx1 hx2
    exact ((q3 x hx2).trans (q2 x hx1)).trans (q1 x hx0)

/-- What the entry leaves (R161, R162, R288). -/
theorem takesVector_enterVector {s : State} (hw : s.mem.wf = true) (vector : Word)
    (hv : ∀ sp : Byte, vector.toNat ≠ (stackAddress sp).toNat ∧ (vector + 1).toNat ≠ (stackAddress sp).toNat) :
    TakesVector s (s.enterVector vector).endInstruction 0 s.pc (pPush s.flags s.brkFlag) vector := by
  obtain ⟨-, k1, k2, k3, kr⟩ := three_pushes hw (highByte s.pc) (lowByte s.pc) (pPush s.flags s.brkFlag)
  have hsp : s.sp - 1 - 1 = s.sp - 2 := by bv_omega
  have hsp3 : s.sp - 1 - 1 - 1 = s.sp - 3 := by bv_omega
  rw [hsp] at k3 kr
  have hmem : s.pushPcHigh.pushPcLow.pushStatus.mem =
      (((s.push (highByte s.pc)).push (lowByte s.pc)).push (pPush s.flags s.brkFlag)).mem := rfl
  unfold holds at k1 k2 k3
  rw [← hmem] at k1 k2 k3 kr
  have htr : s.pushPcHigh.pushPcLow.pushStatus.trace =
      [.writeOperand (stackAddress (s.sp - 2)) (pPush s.flags s.brkFlag),
        .writeOperand (stackAddress (s.sp - 1)) (lowByte s.pc), .writeOperand (stackAddress s.sp) (highByte s.pc)] ++
        s.trace := by
    rw [← hsp]
    rfl
  have hreg : s.pushPcHigh.pushPcLow.pushStatus.registers =
      { s.registers with sp := s.sp - 3, flags := { s.flags with i := true } } := by
    rw [← hsp3]
    rfl
  have hmap : s.pushPcHigh.pushPcLow.pushStatus.mappings = s.mappings := rfl
  have hcfg : s.pushPcHigh.pushPcLow.pushStatus.cfg = s.cfg := rfl
  unfold State.enterVector
  generalize s.pushPcHigh.pushPcLow.pushStatus = u at *
  refine ⟨u.busValue vector, (u.readOperand vector).busValue (vector + 1), ?_, ?_, ?_, ?_, k1, k2, k3, kr⟩
  · simp only [State.registers, Registers.mk.injEq] at hreg ⊢
    obtain ⟨h1, h2, h3, h4, h5, h6⟩ := hreg
    exact ⟨h1, h2, h3, h4, rfl, h6⟩
  · show MicroStep.readOperand _ _ :: MicroStep.readOperand _ _ :: u.trace = _
    rw [htr]; rfl
  · exact (readsAs_busValue u vector).of_eq hmap hcfg (kr _ (hv _).1 (hv _).1 (hv _).1)
  · exact (readsAs_busValue (u.readOperand vector) (vector + 1)).of_eq hmap hcfg (kr _ (hv _).2 (hv _).2 (hv _).2)

/-- Internal cycles before the entry (R161, R162). -/
theorem TakesVector.after {s s' t : State} {n k : Nat} {ret : Word} {st : Byte} {v : Word}
    (h : TakesVector s' t n ret st v)
    (hr : s'.registers = s.registers) (ht : s'.trace = List.replicate k .internalCycle ++ s.trace)
    (hm : s'.mem = s.mem) (hp : s'.mappings = s.mappings) (hc : s'.cfg = s.cfg) : TakesVector s t (n + k) ret st v := by
  obtain ⟨lo, hi, h1, h2, h3, h4, h5, h6, h7, h8⟩ := h
  have hsp : s'.sp = s.sp := congrArg Registers.sp hr
  have hfl : s'.flags = s.flags := congrArg Registers.flags hr
  have hd : ∀ ea, s'.deviceAt ea = s.deviceAt ea := fun ea => by unfold State.deviceAt; rw [hp]
  unfold holds at h5 h6 h7
  rw [hr, hsp, hfl] at h1
  rw [hsp, ht, ← List.append_assoc (List.replicate n _), List.replicate_append_replicate] at h2
  rw [hsp, hd, hm] at h5 h6 h7
  rw [hsp, hm] at h8
  exact ⟨lo, hi, h1, h2, h3.of_eq hp hc (by rw [hm]), h4.of_eq hp hc (by rw [hm]), h5, h6, h7, h8⟩

/-- What the return leaves (R158, R269): three pulls, low byte of the address before the high byte. -/
theorem returnFromInterrupt_pulls (s : State) :
    ∃ m lo hi,
      s.returnFromInterrupt.registers =
        { s.registers with sp := s.sp + 3, pc := wordOf hi lo, flags := pPull m } ∧
      s.returnFromInterrupt.mem = s.mem ∧
      s.returnFromInterrupt.trace =
        [.readOperand (stackAddress (s.sp + 3)) hi, .readOperand (stackAddress (s.sp + 2)) lo,
          .readOperand (stackAddress (s.sp + 1)) m] ++ s.trace ∧
      s.ReadsAs s.mem (stackAddress (s.sp + 1)) m ∧ s.ReadsAs s.mem (stackAddress (s.sp + 2)) lo ∧
      s.ReadsAs s.mem (stackAddress (s.sp + 3)) hi := by
  have h2 : s.sp + 1 + 1 = s.sp + 2 := by bv_omega
  have h3 : s.sp + 2 + 1 = s.sp + 3 := by bv_omega
  have r1 := readsAs_busValue s.popSp (stackAddress (s.sp + 1))
  have r2 := readsAs_busValue s.popSp.readStack.popSp (stackAddress (s.sp + 2))
  have r3 := readsAs_busValue s.popSp.readStack.popSp.readStack.popSp (stackAddress (s.sp + 3))
  refine ⟨s.popSp.stackTop, s.popSp.readStack.popSp.stackTop, s.popSp.readStack.popSp.readStack.popSp.stackTop, ?_, ?_, ?_,
    r1.of_eq ?_ ?_ ?_, ?_, ?_⟩
  case refine_7 =>
    simp only [State.stackTop, popSp_sp, readStack_sp, h2]
    exact r2.of_eq (by simp) (by simp) (by simp)
  case refine_8 =>
    simp only [State.stackTop, popSp_sp, readStack_sp, h2, h3]
    exact r3.of_eq (by simp) (by simp) (by simp)
  all_goals simp [State.returnFromInterrupt, State.registers, BitVec.add_assoc]
/-- No vector lies in the stack page (R51). -/
theorem vector_not_stack {v : Word} (h : 0xFFFA ≤ v.toNat) (sp : Byte) : v.toNat ≠ (stackAddress sp).toNat := by
  have := stackAddress_toNat sp
  have := sp.isLt
  omega

end Sys2Proof.Machine
end

