-- ==== Sys2Proof/Laws/PerInstr.lean ====
section
/-! SUPPORT. One lemma per instruction: the table by mnemonic and the opcode matrix of R86 agree on it. -/

namespace Sys2Proof.Laws

/-- An instruction of the set has an opcode byte, and the matrix gives that byte the instruction's kind and mode (R84, R86). -/
def TablesAgree.Statement (i : Instr) : Prop :=
  i.WellFormed → ∃ op, i.opcode? = some op ∧ (optab op).kind = i.kind ∧ (optab op).mode = i.mode

theorem tables_agree_operand (k : Kind) (hk : k ≠ .ill) (m : Mode) (h : k.modes.contains m = true) :
    ∃ op, (k.opcodes.find? fun e => e.1 == m).map Prod.snd = some op ∧ (optab op).kind = k ∧ (optab op).mode = m := by
  cases hf : k.opcodes.find? fun e => e.1 == m with
  | none =>
    rw [← opcodes_modes k hk] at h
    simp only [List.contains_iff_mem, List.mem_map] at h
    obtain ⟨e, he, rfl⟩ := h
    exact absurd (List.find?_eq_none.1 hf e he) (by simp)
  | some e =>
    have he := optab_of_opcodes k e (List.mem_of_find?_eq_some hf)
    have hm : e.1 = m := by simpa using List.find?_some hf
    exact ⟨e.2, rfl, he.1, he.2.trans hm⟩

theorem TablesAgree.lda (o : Operand) : TablesAgree.Statement (.lda o) :=
  fun h => tables_agree_operand .lda (by decide) (Instr.lda o).mode h

theorem TablesAgree.ldx (o : Operand) : TablesAgree.Statement (.ldx o) :=
  fun h => tables_agree_operand .ldx (by decide) (Instr.ldx o).mode h

theorem TablesAgree.ldy (o : Operand) : TablesAgree.Statement (.ldy o) :=
  fun h => tables_agree_operand .ldy (by decide) (Instr.ldy o).mode h

theorem TablesAgree.sta (o : Operand) : TablesAgree.Statement (.sta o) :=
  fun h => tables_agree_operand .sta (by decide) (Instr.sta o).mode h

theorem TablesAgree.stx (o : Operand) : TablesAgree.Statement (.stx o) :=
  fun h => tables_agree_operand .stx (by decide) (Instr.stx o).mode h

theorem TablesAgree.sty (o : Operand) : TablesAgree.Statement (.sty o) :=
  fun h => tables_agree_operand .sty (by decide) (Instr.sty o).mode h

theorem TablesAgree.tax : TablesAgree.Statement .tax :=
  fun h => tables_agree_operand .tax (by decide) Instr.tax.mode h

theorem TablesAgree.tay : TablesAgree.Statement .tay :=
  fun h => tables_agree_operand .tay (by decide) Instr.tay.mode h

theorem TablesAgree.txa : TablesAgree.Statement .txa :=
  fun h => tables_agree_operand .txa (by decide) Instr.txa.mode h

theorem TablesAgree.tya : TablesAgree.Statement .tya :=
  fun h => tables_agree_operand .tya (by decide) Instr.tya.mode h

theorem TablesAgree.tsx : TablesAgree.Statement .tsx :=
  fun h => tables_agree_operand .tsx (by decide) Instr.tsx.mode h

theorem TablesAgree.txs : TablesAgree.Statement .txs :=
  fun h => tables_agree_operand .txs (by decide) Instr.txs.mode h

theorem TablesAgree.pha : TablesAgree.Statement .pha :=
  fun h => tables_agree_operand .pha (by decide) Instr.pha.mode h

theorem TablesAgree.php : TablesAgree.Statement .php :=
  fun h => tables_agree_operand .php (by decide) Instr.php.mode h

theorem TablesAgree.pla : TablesAgree.Statement .pla :=
  fun h => tables_agree_operand .pla (by decide) Instr.pla.mode h

theorem TablesAgree.plp : TablesAgree.Statement .plp :=
  fun h => tables_agree_operand .plp (by decide) Instr.plp.mode h

theorem TablesAgree.ora (o : Operand) : TablesAgree.Statement (.ora o) :=
  fun h => tables_agree_operand .ora (by decide) (Instr.ora o).mode h

theorem TablesAgree.and (o : Operand) : TablesAgree.Statement (.and o) :=
  fun h => tables_agree_operand .and (by decide) (Instr.and o).mode h

theorem TablesAgree.eor (o : Operand) : TablesAgree.Statement (.eor o) :=
  fun h => tables_agree_operand .eor (by decide) (Instr.eor o).mode h

theorem TablesAgree.adc (o : Operand) : TablesAgree.Statement (.adc o) :=
  fun h => tables_agree_operand .adc (by decide) (Instr.adc o).mode h

theorem TablesAgree.sbc (o : Operand) : TablesAgree.Statement (.sbc o) :=
  fun h => tables_agree_operand .sbc (by decide) (Instr.sbc o).mode h

theorem TablesAgree.cmp (o : Operand) : TablesAgree.Statement (.cmp o) :=
  fun h => tables_agree_operand .cmp (by decide) (Instr.cmp o).mode h

theorem TablesAgree.cpx (o : Operand) : TablesAgree.Statement (.cpx o) :=
  fun h => tables_agree_operand .cpx (by decide) (Instr.cpx o).mode h

theorem TablesAgree.cpy (o : Operand) : TablesAgree.Statement (.cpy o) :=
  fun h => tables_agree_operand .cpy (by decide) (Instr.cpy o).mode h

theorem TablesAgree.bit (o : Operand) : TablesAgree.Statement (.bit o) :=
  fun h => tables_agree_operand .bit (by decide) (Instr.bit o).mode h

theorem TablesAgree.asl (o : Operand) : TablesAgree.Statement (.asl o) :=
  fun h => tables_agree_operand .asl (by decide) (Instr.asl o).mode h

theorem TablesAgree.lsr (o : Operand) : TablesAgree.Statement (.lsr o) :=
  fun h => tables_agree_operand .lsr (by decide) (Instr.lsr o).mode h

theorem TablesAgree.rol (o : Operand) : TablesAgree.Statement (.rol o) :=
  fun h => tables_agree_operand .rol (by decide) (Instr.rol o).mode h

theorem TablesAgree.ror (o : Operand) : TablesAgree.Statement (.ror o) :=
  fun h => tables_agree_operand .ror (by decide) (Instr.ror o).mode h

theorem TablesAgree.inc (o : Operand) : TablesAgree.Statement (.inc o) :=
  fun h => tables_agree_operand .inc (by decide) (Instr.inc o).mode h

theorem TablesAgree.dec (o : Operand) : TablesAgree.Statement (.dec o) :=
  fun h => tables_agree_operand .dec (by decide) (Instr.dec o).mode h

theorem TablesAgree.inx : TablesAgree.Statement .inx :=
  fun h => tables_agree_operand .inx (by decide) Instr.inx.mode h

theorem TablesAgree.iny : TablesAgree.Statement .iny :=
  fun h => tables_agree_operand .iny (by decide) Instr.iny.mode h

theorem TablesAgree.dex : TablesAgree.Statement .dex :=
  fun h => tables_agree_operand .dex (by decide) Instr.dex.mode h

theorem TablesAgree.dey : TablesAgree.Statement .dey :=
  fun h => tables_agree_operand .dey (by decide) Instr.dey.mode h

theorem TablesAgree.jmp (o : Operand) : TablesAgree.Statement (.jmp o) :=
  fun h => tables_agree_operand .jmp (by decide) (Instr.jmp o).mode h

theorem TablesAgree.jsr (target : Word) : TablesAgree.Statement (.jsr target) :=
  fun h => tables_agree_operand .jsr (by decide) (Instr.jsr target).mode h

theorem TablesAgree.rts : TablesAgree.Statement .rts :=
  fun h => tables_agree_operand .rts (by decide) Instr.rts.mode h

theorem TablesAgree.bpl (offset : Byte) : TablesAgree.Statement (.bpl offset) :=
  fun h => tables_agree_operand .bpl (by decide) (Instr.bpl offset).mode h

theorem TablesAgree.bmi (offset : Byte) : TablesAgree.Statement (.bmi offset) :=
  fun h => tables_agree_operand .bmi (by decide) (Instr.bmi offset).mode h

theorem TablesAgree.bvc (offset : Byte) : TablesAgree.Statement (.bvc offset) :=
  fun h => tables_agree_operand .bvc (by decide) (Instr.bvc offset).mode h

theorem TablesAgree.bvs (offset : Byte) : TablesAgree.Statement (.bvs offset) :=
  fun h => tables_agree_operand .bvs (by decide) (Instr.bvs offset).mode h

theorem TablesAgree.bcc (offset : Byte) : TablesAgree.Statement (.bcc offset) :=
  fun h => tables_agree_operand .bcc (by decide) (Instr.bcc offset).mode h

theorem TablesAgree.bcs (offset : Byte) : TablesAgree.Statement (.bcs offset) :=
  fun h => tables_agree_operand .bcs (by decide) (Instr.bcs offset).mode h

theorem TablesAgree.bne (offset : Byte) : TablesAgree.Statement (.bne offset) :=
  fun h => tables_agree_operand .bne (by decide) (Instr.bne offset).mode h

theorem TablesAgree.beq (offset : Byte) : TablesAgree.Statement (.beq offset) :=
  fun h => tables_agree_operand .beq (by decide) (Instr.beq offset).mode h

theorem TablesAgree.clc : TablesAgree.Statement .clc :=
  fun h => tables_agree_operand .clc (by decide) Instr.clc.mode h

theorem TablesAgree.sec : TablesAgree.Statement .sec :=
  fun h => tables_agree_operand .sec (by decide) Instr.sec.mode h

theorem TablesAgree.cli : TablesAgree.Statement .cli :=
  fun h => tables_agree_operand .cli (by decide) Instr.cli.mode h

theorem TablesAgree.sei : TablesAgree.Statement .sei :=
  fun h => tables_agree_operand .sei (by decide) Instr.sei.mode h

theorem TablesAgree.clv : TablesAgree.Statement .clv :=
  fun h => tables_agree_operand .clv (by decide) Instr.clv.mode h

theorem TablesAgree.cld : TablesAgree.Statement .cld :=
  fun h => tables_agree_operand .cld (by decide) Instr.cld.mode h

theorem TablesAgree.sed : TablesAgree.Statement .sed :=
  fun h => tables_agree_operand .sed (by decide) Instr.sed.mode h

theorem TablesAgree.nop : TablesAgree.Statement .nop :=
  fun h => tables_agree_operand .nop (by decide) Instr.nop.mode h

theorem TablesAgree.brk : TablesAgree.Statement .brk :=
  fun h => tables_agree_operand .brk (by decide) Instr.brk.mode h

theorem TablesAgree.rti : TablesAgree.Statement .rti :=
  fun h => tables_agree_operand .rti (by decide) Instr.rti.mode h

theorem TablesAgree.ill (op : Byte) : TablesAgree.Statement (.ill op) := by
  intro h
  have hk := (optab_ill_iff op).2 h
  have hm : ∀ op : Byte, (optab op).kind = .ill → (optab op).mode = .imp := by decide +kernel
  exact ⟨op, rfl, hk, hm op hk⟩

end Sys2Proof.Laws
end

