-- ==== Sys2Proof/Tests/Slice0.lean ====
section
/-! SUPPORT. The author's own tests: well-formedness, words written out from the encodings of R81 and R86, one step per instruction
with the result of the spec's own example (the rule's Example line or a vector of 95_test_vectors.md), and for every statement with
hypotheses a state and operands that meet them. -/

namespace Sys2Proof.Machine.Tests

/-! ## Well-formedness: one ill-formed term for each check -/

theorem test_wellFormed_modes : (Instr.lda (.imm 0x80)).WellFormed ∧ ¬ (Instr.sta (.imm 0x80)).WellFormed := by decide

theorem test_wellFormed_indexed : ¬ (Instr.ldx (.zpx 0x10)).WellFormed ∧ ¬ (Instr.stx (.aby 0x0200)).WellFormed := by decide

theorem test_wellFormed_accumulator : ¬ (Instr.inc .acc).WellFormed ∧ ¬ (Instr.lda .acc).WellFormed := by decide

theorem test_wellFormed_indirect : (Instr.jmp (.ind 0x12FF)).WellFormed ∧ ¬ (Instr.jmp (.izy 0x12)).WellFormed := by decide

theorem test_wellFormed_undefined : (Instr.ill 0x02).WellFormed ∧ ¬ (Instr.ill 0xEA).WellFormed := by decide

/-! ## Decoding: words from the formats of R81 and the opcodes of R86 -/

theorem test_decode_loads :
    decodeTableWord 16 0x80A9 = some (.lda (.imm 0x80)) ∧ decodeTableWord 24 0x1234BD = some (.lda (.abx 0x1234)) ∧
    decodeTableWord 16 0x10A6 = some (.ldx (.zp 0x10)) ∧ decodeTableWord 24 0x1234BE = some (.ldx (.aby 0x1234)) ∧
    decodeTableWord 16 0x7FA0 = some (.ldy (.imm 0x7F)) ∧ decodeTableWord 16 0x10B4 = some (.ldy (.zpx 0x10)) := by decide

theorem test_decode_stores :
    decodeTableWord 24 0x02009D = some (.sta (.abx 0x0200)) ∧ decodeTableWord 16 0x8691 = some (.sta (.izy 0x86)) ∧
    decodeTableWord 16 0x1086 = some (.stx (.zp 0x10)) ∧ decodeTableWord 16 0x1096 = some (.stx (.zpy 0x10)) ∧
    decodeTableWord 24 0x03008C = some (.sty (.abs 0x0300)) := by decide

theorem test_decode_transfers :
    decodeTableWord 8 0xAA = some .tax ∧ decodeTableWord 8 0xA8 = some .tay ∧ decodeTableWord 8 0x8A = some .txa ∧
    decodeTableWord 8 0x98 = some .tya ∧ decodeTableWord 8 0xBA = some .tsx ∧ decodeTableWord 8 0x9A = some .txs ∧
    decodeTableWord 8 0x48 = some .pha ∧ decodeTableWord 8 0x08 = some .php ∧ decodeTableWord 8 0x68 = some .pla ∧
    decodeTableWord 8 0x28 = some .plp := by decide

theorem test_decode_alu :
    decodeTableWord 16 0x8009 = some (.ora (.imm 0x80)) ∧ decodeTableWord 16 0x0F29 = some (.and (.imm 0x0F)) ∧
    decodeTableWord 16 0x2041 = some (.eor (.izx 0x20)) ∧ decodeTableWord 16 0x8671 = some (.adc (.izy 0x86)) ∧
    decodeTableWord 24 0x1234F9 = some (.sbc (.aby 0x1234)) ∧ decodeTableWord 16 0x41C9 = some (.cmp (.imm 0x41)) ∧
    decodeTableWord 24 0x1234EC = some (.cpx (.abs 0x1234)) ∧ decodeTableWord 16 0x01C0 = some (.cpy (.imm 0x01)) ∧
    decodeTableWord 16 0x1024 = some (.bit (.zp 0x10)) := by decide

theorem test_decode_rmw :
    decodeTableWord 8 0x0A = some (.asl .acc) ∧ decodeTableWord 16 0x1046 = some (.lsr (.zp 0x10)) ∧
    decodeTableWord 24 0x12342E = some (.rol (.abs 0x1234)) ∧ decodeTableWord 16 0x1076 = some (.ror (.zpx 0x10)) ∧
    decodeTableWord 24 0x0300FE = some (.inc (.abx 0x0300)) ∧ decodeTableWord 16 0x10C6 = some (.dec (.zp 0x10)) ∧
    decodeTableWord 8 0xE8 = some .inx ∧ decodeTableWord 8 0xC8 = some .iny ∧ decodeTableWord 8 0xCA = some .dex ∧
    decodeTableWord 8 0x88 = some .dey := by decide

theorem test_decode_control :
    decodeTableWord 24 0x12344C = some (.jmp (.abs 0x1234)) ∧ decodeTableWord 24 0x02FF6C = some (.jmp (.ind 0x02FF)) ∧
    decodeTableWord 24 0x030020 = some (.jsr 0x0300) ∧ decodeTableWord 8 0x60 = some .rts ∧
    decodeTableWord 16 0x1010 = some (.bpl 0x10) ∧ decodeTableWord 16 0x1030 = some (.bmi 0x10) ∧
    decodeTableWord 16 0x0550 = some (.bvc 0x05) ∧ decodeTableWord 16 0xFE70 = some (.bvs 0xFE) ∧
    decodeTableWord 16 0x0190 = some (.bcc 0x01) ∧ decodeTableWord 16 0x80B0 = some (.bcs 0x80) ∧
    decodeTableWord 16 0xF9D0 = some (.bne 0xF9) ∧ decodeTableWord 16 0x00F0 = some (.beq 0x00) := by decide

theorem test_decode_system :
    decodeTableWord 8 0x18 = some .clc ∧ decodeTableWord 8 0x38 = some .sec ∧ decodeTableWord 8 0x58 = some .cli ∧
    decodeTableWord 8 0x78 = some .sei ∧ decodeTableWord 8 0xB8 = some .clv ∧ decodeTableWord 8 0xD8 = some .cld ∧
    decodeTableWord 8 0xF8 = some .sed ∧ decodeTableWord 8 0xEA = some .nop ∧ decodeTableWord 8 0x00 = some .brk ∧
    decodeTableWord 8 0x40 = some .rti ∧ decodeTableWord 8 0x02 = some (.ill 0x02) ∧
    decodeTableWord 8 0xFF = some (.ill 0xFF) := by decide

theorem test_decode_short : decode [0xAD, 0x34] = .error .missingOperandBytes ∧ decode [] = .error .noBytes := ⟨rfl, rfl⟩

/-! ## One step per instruction -/

/-- The platform of the vectors: one RAM over the whole space, at a fetch boundary. -/
def bench (pc : Word) (mem : Memory) (p : Byte := 0x20) (sp : Byte := 0xFD) : State :=
  { State.powerOn Config.default PowerOn.simulatorDefault ramEverywhere mem with
    fsm := .fetch, pc := pc, sp := sp, flags := pPull p }

/-- A view of the state after one step. -/
def after {α : Type} (s : State) (f : State → α) : Option α :=
  match step s with
  | .next t => some (f t)
  | .fault _ => none
  | .refused _ => none

/-- The status byte and the number of cycles. -/
def pCycles (t : State) : Byte × Nat := (t.p, t.trace.length)

theorem test_lda : after (bench 0x0600 [(0x0600, 0xA9), (0x0601, 0x80)]) (fun t => (t.a, pCycles t)) =
    some (0x80, 0xA0, 2) := by decide

theorem test_lda_crossing : after { bench 0x0600 [(0x0086, 0xF8), (0x0087, 0x40), (0x0600, 0xB1), (0x0601, 0x86), (0x4108, 0x7E)]
      with y := 0x10 } (fun t => (t.a, t.trace.take 2, t.trace.length)) =
    some (0x7E, [.readOperand 0x4108 0x7E, .dummyRead 0x4008 0x00], 6) := by decide

/-- The example of R125: the sum wraps in page 0, its carry is reported, and the report costs no cycle. -/
theorem test_lda_zeroPageIndexed :
    let s := { bench 0x0600 [(0x0010, 0x42), (0x0600, 0xB5), (0x0601, 0xF0)] with x := 0x20 }
    after s (fun t => (t.a, t.trace.take 2, t.trace.length)) =
      some (0x42, [.readOperand 0x0010 0x42, .dummyRead 0x00F0 0x00], 4) ∧
    operandCrosses (.zpx 0xF0) s = true ∧ operandAddress (.zpx 0xF0) s = some 0x0010 := by decide

theorem test_ldx : after (bench 0x0600 [(0x0600, 0xA6), (0x0601, 0x10)]) (fun t => (t.x, pCycles t)) =
    some (0x00, 0x22, 3) := by decide

theorem test_ldy : after (bench 0x0600 [(0x0600, 0xA0), (0x0601, 0x7F)]) (fun t => (t.y, pCycles t)) =
    some (0x7F, 0x20, 2) := by decide

theorem test_sta : after { bench 0x0600 [(0x0600, 0x9D), (0x0602, 0x02)] with a := 0x55, x := 0x01 }
      (fun t => (t.mem.read 0x0201, t.trace.take 2, t.trace.length)) =
    some (0x55, [.writeOperand 0x0201 0x55, .dummyRead 0x0201 0x00], 5) := by decide

theorem test_stx : after { bench 0x0600 [(0x0600, 0x86), (0x0601, 0x10)] with x := 0x05 }
      (fun t => (t.mem.read 0x0010, pCycles t)) = some (0x05, 0x20, 3) := by decide

theorem test_sty : after { bench 0x0600 [(0x0600, 0x8C), (0x0602, 0x03)] with y := 0xFF }
      (fun t => (t.mem.read 0x0300, pCycles t)) = some (0xFF, 0x20, 4) := by decide

theorem test_tax : after { bench 0x0600 [(0x0600, 0xAA)] with x := 0x07 } (fun t => (t.x, pCycles t)) =
    some (0x00, 0x22, 2) := by decide

theorem test_tay : after { bench 0x0600 [(0x0600, 0xA8)] with a := 0x90 } (fun t => (t.y, pCycles t)) =
    some (0x90, 0xA0, 2) := by decide

theorem test_txa : after { bench 0x0600 [(0x0600, 0x8A)] with x := 0x01 } (fun t => (t.a, pCycles t)) =
    some (0x01, 0x20, 2) := by decide

theorem test_tya : after { bench 0x0600 [(0x0600, 0x98)] with y := 0xFF } (fun t => (t.a, pCycles t)) =
    some (0xFF, 0xA0, 2) := by decide

theorem test_tsx : after (bench 0x0600 [(0x0600, 0xBA)]) (fun t => (t.x, t.sp, pCycles t)) =
    some (0xFD, 0xFD, 0xA0, 2) := by decide

theorem test_txs : after { bench 0x0600 [(0x0600, 0x9A)] with x := 0xFF } (fun t => (t.sp, pCycles t)) =
    some (0xFF, 0x20, 2) := by decide

theorem test_pha : after { bench 0x0600 [(0x0600, 0x48)] with a := 0x42 }
      (fun t => (t.mem.read 0x01FD, t.sp, pCycles t)) = some (0x42, 0xFC, 0x20, 3) := by decide

theorem test_pha_wrap : after { bench 0x0600 [(0x0600, 0x48)] (sp := 0x00) with a := 0x42 }
      (fun t => (t.mem.read 0x0100, t.sp)) = some (0x42, 0xFF) := by decide

theorem test_php : after (bench 0x0600 [(0x0600, 0x08)] 0xA1 0xFF) (fun t => (t.mem.read 0x01FF, t.sp, pCycles t)) =
    some (0xB1, 0xFE, 0xA1, 3) := by decide

theorem test_pla : after { bench 0x0600 [(0x0600, 0x68)] (sp := 0xFC) with a := 0x42 } (fun t => (t.a, t.sp, pCycles t)) =
    some (0x00, 0xFD, 0x22, 4) := by decide

theorem test_plp : after (bench 0x0600 [(0x01FF, 0xB1), (0x0600, 0x28)] 0x20 0xFE) (fun t => (t.sp, pCycles t)) =
    some (0xFF, 0xA1, 4) := by decide

theorem test_ora : after { bench 0x0600 [(0x0600, 0x09), (0x0601, 0x80)] with a := 0x0F } (fun t => (t.a, t.p)) =
    some (0x8F, 0xA0) := by decide

theorem test_and : after { bench 0x0600 [(0x0600, 0x29), (0x0601, 0x0F)] with a := 0xF0 } (fun t => (t.a, t.p)) =
    some (0x00, 0x22) := by decide

theorem test_eor : after { bench 0x0600 [(0x0600, 0x49), (0x0601, 0xFF)] with a := 0xAA } (fun t => (t.a, t.p)) =
    some (0x55, 0x20) := by decide

theorem test_adc : after { bench 0x0600 [(0x0600, 0x69), (0x0601, 0x50)] with a := 0x50 } (fun t => (t.a, t.p)) =
    some (0xA0, 0xE0) := by decide

theorem test_adc_decimal : after { bench 0x0600 [(0x0600, 0x69), (0x0601, 0x46)] 0x28 with a := 0x58 }
      (fun t => (t.a, t.p)) = some (0x04, 0x69) := by decide

theorem test_sbc : after { bench 0x0600 [(0x0600, 0xE9), (0x0601, 0xB0)] 0x21 with a := 0x50 } (fun t => (t.a, t.p)) =
    some (0xA0, 0xE0) := by decide

theorem test_sbc_decimal : after { bench 0x0600 [(0x0600, 0xE9), (0x0601, 0x21)] 0x29 with a := 0x12 }
      (fun t => (t.a, t.flags.c)) = some (0x91, false) := by decide

theorem test_cmp : after { bench 0x0600 [(0x0600, 0xC9), (0x0601, 0x41)] with a := 0x40 } (fun t => (t.a, t.p)) =
    some (0x40, 0xA0) := by decide

theorem test_cpx : after { bench 0x0600 [(0x0600, 0xE0), (0x0601, 0x10)] with x := 0x10 } (fun t => (t.x, t.p)) =
    some (0x10, 0x23) := by decide

theorem test_cpy : after (bench 0x0600 [(0x0600, 0xC0), (0x0601, 0x01)]) (fun t => (t.y, t.p)) =
    some (0x00, 0xA0) := by decide

theorem test_bit : after { bench 0x0600 [(0x0010, 0x81), (0x0600, 0x24), (0x0601, 0x10)] with a := 0x01 }
      (fun t => (t.a, pCycles t)) = some (0x01, 0xA0, 3) := by decide

theorem test_asl : after { bench 0x0600 [(0x0600, 0x0A)] with a := 0x81 } (fun t => (t.a, pCycles t)) =
    some (0x02, 0x21, 2) := by decide

theorem test_lsr : after { bench 0x0600 [(0x0600, 0x4A)] with a := 0x03 } (fun t => (t.a, t.p)) =
    some (0x01, 0x21) := by decide

theorem test_rol : after { bench 0x0600 [(0x0600, 0x2A)] 0x21 with a := 0x40 } (fun t => (t.a, t.p)) =
    some (0x81, 0xA0) := by decide

theorem test_ror : after { bench 0x0600 [(0x0600, 0x6A)] 0x21 with a := 0x02 } (fun t => (t.a, t.p)) =
    some (0x81, 0xA0) := by decide

theorem test_inc : after (bench 0x0600 [(0x0300, 0x41), (0x0600, 0xEE), (0x0602, 0x03)])
      (fun t => (t.mem.read 0x0300, t.trace.take 3, t.trace.length)) =
    some (0x42, [.writeOperand 0x0300 0x42, .writeOperand 0x0300 0x41, .readOperand 0x0300 0x41], 6) := by decide

theorem test_dec : after (bench 0x0600 [(0x0010, 0x01), (0x0600, 0xC6), (0x0601, 0x10)])
      (fun t => (t.mem, pCycles t)) = some ([(0x0600, 0xC6), (0x0601, 0x10)], 0x22, 5) := by decide

theorem test_inx : after { bench 0x0600 [(0x0600, 0xE8)] with x := 0x7F } (fun t => (t.x, t.p)) =
    some (0x80, 0xA0) := by decide

theorem test_iny : after (bench 0x0600 [(0x0600, 0xC8)]) (fun t => (t.y, t.p)) = some (0x01, 0x20) := by decide

theorem test_dex : after { bench 0x0600 [(0x0600, 0xCA)] with x := 0x01 } (fun t => (t.x, t.p)) =
    some (0x00, 0x22) := by decide

theorem test_dey : after (bench 0x0600 [(0x0600, 0x88)]) (fun t => (t.y, t.p)) = some (0xFF, 0xA0) := by decide

theorem test_jmp_indirect : after (bench 0x0600 [(0x0200, 0x04), (0x0300, 0x05), (0x0600, 0x6C), (0x0601, 0xFF), (0x0602, 0x02)])
      (fun t => (t.pc, t.trace.length)) = some (0x0400, 5) := by decide

theorem test_jsr : after (bench 0x0200 [(0x0200, 0x20), (0x0202, 0x03)])
      (fun t => (t.pc, t.sp, t.mem.read 0x01FD, t.mem.read 0x01FC, t.trace.length)) =
    some (0x0300, 0xFB, 0x02, 0x02, 6) := by decide

/-- JSR whose third byte is the byte its own push overwrites (R241): the pushed byte is the high byte of the target. -/
theorem test_jsr_sees_its_push : after (bench 0x01FB [(0x01FB, 0x20), (0x01FC, 0x34), (0x01FD, 0x99)])
      (fun t => t.pc) = some 0x0134 := by decide

theorem test_rts : after (bench 0x0600 [(0x01FC, 0x02), (0x01FD, 0x02), (0x0600, 0x60)] 0x20 0xFB)
      (fun t => (t.pc, t.sp, t.trace.length)) = some (0x0203, 0xFD, 6) := by decide

/-- Cycle 5 of RTS (R157): `hi` and PC are written. -/
theorem test_rts_cycle5 :
    (match stepCycle { bench 0x0601 [(0x01FD, 0x02)] with
        fsm := .execute, latches := { Latches.dead with ir := 0x60, t := 5, lo := 0x34 } } with
      | .next t => some (t.latches.hi, t.pc, t.latches.t)
      | .fault _ => none
      | .refused _ => none) = some (0x02, 0x0234, 6) := by decide

theorem test_bpl : after (bench 0x0200 [(0x0200, 0x10), (0x0201, 0x10)]) (fun t => (t.pc, t.trace.length)) =
    some (0x0212, 3) := by decide

theorem test_bmi : after (bench 0x0200 [(0x0200, 0x30), (0x0201, 0x10)]) (fun t => (t.pc, t.trace.length)) =
    some (0x0202, 2) := by decide

theorem test_bvc : after (bench 0x02FD [(0x02FD, 0x50), (0x02FE, 0x05)]) (fun t => (t.pc, t.trace.length)) =
    some (0x0304, 4) := by decide

theorem test_bvs : after (bench 0x0200 [(0x0200, 0x70), (0x0201, 0xFE)] 0x60) (fun t => (t.pc, t.trace.length)) =
    some (0x0200, 3) := by decide

theorem test_bcc : after (bench 0x0200 [(0x0200, 0x90), (0x0201, 0x10)] 0x21) (fun t => (t.pc, t.trace.length)) =
    some (0x0202, 2) := by decide

theorem test_bcs : after (bench 0x0300 [(0x0300, 0xB0), (0x0301, 0x80)] 0x21) (fun t => (t.pc, t.trace.length)) =
    some (0x0282, 4) := by decide

theorem test_bne : after (bench 0x020A [(0x020A, 0xD0), (0x020B, 0xF9)]) (fun t => (t.pc, t.trace.length)) =
    some (0x0205, 3) := by decide

theorem test_beq : after (bench 0x0200 [(0x0200, 0xF0)] 0x22) (fun t => (t.pc, t.trace.length)) =
    some (0x0202, 3) := by decide

theorem test_clc : after (bench 0x0600 [(0x0600, 0x18)] 0x21) State.p = some 0x20 := by decide

theorem test_sec : after (bench 0x0600 [(0x0600, 0x38)]) State.p = some 0x21 := by decide

theorem test_cli : after (bench 0x0600 [(0x0600, 0x58)] 0x24) State.p = some 0x20 := by decide

/-- An IRQ that was masked is taken right after the CLI that clears I (R286). -/
theorem test_cli_lets_irq_in : after { bench 0x0600 [(0x0600, 0x58), (0xFFFF, 0x04)] 0x24 with irqLine := true }
      (fun t => (t.pc, t.mem.read 0x01FB, pCycles t)) = some (0x0400, 0x20, 0x24, 9) := by decide

theorem test_sei : after { bench 0x0600 [(0x0600, 0x78)] with irqLine := true } (fun t => (t.pc, t.p)) =
    some (0x0601, 0x24) := by decide

theorem test_clv : after (bench 0x0600 [(0x0600, 0xB8)] 0x60) State.p = some 0x20 := by decide

theorem test_cld : after (bench 0x0600 [(0x0600, 0xD8)] 0x28) State.p = some 0x20 := by decide

theorem test_sed : after (bench 0x0600 [(0x0600, 0xF8)]) State.p = some 0x28 := by decide

theorem test_nop : after (bench 0x0200 [(0x0200, 0xEA)]) (fun t => (t.pc, pCycles t)) = some (0x0201, 0x20, 2) := by decide

theorem test_brk : after (bench 0x0200 [(0xFFFF, 0x04)])
      (fun t => (t.pc, t.mem.read 0x01FD, t.mem.read 0x01FC, t.mem.read 0x01FB, t.p)) =
    some (0x0400, 0x02, 0x02, 0x30, 0x24) := by decide

theorem test_rti : after (bench 0x0600 [(0x01FB, 0x30), (0x01FC, 0x02), (0x01FD, 0x02), (0x0600, 0x40)] 0xEF 0xFA)
      (fun t => (t.pc, t.sp, pCycles t)) = some (0x0202, 0xFD, 0x20, 6) := by decide

theorem test_ill : after (bench 0x0200 [(0x0200, 0x02)])
      (fun t => (t.fsm, t.pc, t.signals, t.trace.length)) = some (.trapped, 0x0200, [⟨0x02, 0x0200⟩], 1) := by decide

/-! ## Interrupts, reset, bus -/

/-- The worked sequence of R307, with the status byte 0xE3. -/
theorem test_irq : after { bench 0x0202 [(0x0202, 0xEA), (0xFFFF, 0x04)] 0xE3 with irqLine := true }
      (fun t => (t.pc, t.sp, t.mem.read 0x01FD, t.mem.read 0x01FC, t.mem.read 0x01FB, t.irqLine)) =
    some (0x0400, 0xFA, 0x02, 0x03, 0xE3, true) := by decide

theorem test_nmi : after { bench 0x0202 [(0x0202, 0xEA), (0xFFFB, 0x05)] 0x24 with irqLine := true, nmiPending := true }
      (fun t => (t.pc, t.mem.read 0x01FB, t.nmiPending, pCycles t)) = some (0x0500, 0x24, false, 0x24, 9) := by decide

/-- X9: `reset()` on a running core. -/
theorem test_reset : after (State.hostReset { bench 0x1234 [(0xFFFD, 0x02)] 0xEB 0x80 with a := 0x12, nmiPending := true })
      (fun t => (t.a, t.sp, t.pc, t.nmiPending, pCycles t)) = some (0x12, 0x7D, 0x0200, false, 0xEF, 7) := by decide

/-- X12: a read and a write of unmapped addresses. -/
theorem test_openBus : after { bench 0x0200 [(0x0200, 0xEE), (0x0202, 0xA0)] with mappings := [⟨0x0000, 0x7FFF, .ram⟩] }
      (fun t => (t.p, t.diagnostics, t.mem.read 0xA000)) =
    some (0x22, [.write 0xA000 0x00, .write 0xA000 0xFF, .read 0xA000], 0x00) := by decide

theorem test_rom : after { bench 0x0200 [(0x0200, 0x8D), (0x0202, 0x80), (0x8000, 0x33)]
      with a := 0x55, mappings := [⟨0x0000, 0x7FFF, .ram⟩, ⟨0x8000, 0xFFFF, .rom⟩] } (fun t => t.mem.read 0x8000) =
    some 0x33 := by decide

theorem test_register : registerMapping [⟨0x0000, 0x7FFF, .ram⟩] ⟨0x7FFF, 0x8000, .rom⟩ = .error .rangeOverlap ∧
    registerMapping [] ⟨0x0001, 0x0000, .ram⟩ = .error .invalidRange := ⟨rfl, rfl⟩

/-- `withFetchWord` makes the very next step after reset run the instruction. -/
theorem test_withFetchWord : after (State.reset.withFetchWord 16 0x80A9) (fun t => (t.a, t.pc)) = some (0x80, 0x0002) := by decide

/-! ## Witnesses: for every statement with hypotheses, a state and operands that meet them together -/

theorem witness_DecodeOfEncodeIsTheInstruction : (Instr.lda (.izy 0xFF)).WellFormed ∧ (Instr.jmp (.ind 0xFFFF)).WellFormed ∧
    (Instr.ill 0xFF).WellFormed ∧ (Instr.bne 0x80).WellFormed := by decide

theorem witness_DecodedInstructionIsInTheSet :
    decode [0x6C, 0xFF, 0x02, 0xEA] = .ok (.jmp (.ind 0x02FF), [0xEA]) ∧ decode [0xFF] = .ok (.ill 0xFF, []) := ⟨rfl, rfl⟩

theorem witness_OpcodeTableIsTotal : undefinedOpcodes.contains 0xFF = true ∧ undefinedOpcodes.contains 0x00 = false ∧
    undefinedOpcodes.contains 0xFE = false ∧ (optab 0xB1).pcx = true := by decide

/-- An instruction whose opcode is the last byte of the space. -/
def atTheTop : State := bench 0xFFFF [(0x0000, 0x80), (0xFFFF, 0xA9)]

theorem witness_StepRunsTheDecodedInstruction : atTheTop.fsm = .fetch ∧
    decode [atTheTop.opcodeByte, atTheTop.operandByte1, atTheTop.operandByte2] = .ok (.lda (.imm 0x80), [0x00]) := ⟨rfl, rfl⟩

theorem witness_FetchAdvancesPcPastTheInstruction : (Instr.lda (.imm 0x80)).WellFormed ∧ (Instr.jsr 0x0300).WellFormed ∧
    (Instr.ill 0x02).WellFormed := by decide

theorem witness_InstructionInMemoryIsTheOneThatRuns : atTheTop.fsm = .fetch ∧ (Instr.lda (.imm 0x80)).WellFormed ∧
    ∀ k (h : k < (encode (Instr.lda (.imm 0x80))).length),
      memoryBacked atTheTop.mappings (atTheTop.pc + BitVec.ofNat 16 k) = true ∧
        atTheTop.mem.read (atTheTop.pc + BitVec.ofNat 16 k).toNat = (encode (Instr.lda (.imm 0x80)))[k] := by decide

theorem witness_StepAgreesWithTheCycleMachine : atTheTop.fsm = .fetch := rfl

theorem witness_CycleCountContract : atTheTop.fsm = .fetch ∧ (optab atTheTop.opcodeByte).kind ≠ .ill := by decide

theorem witness_DocumentedInstructionsNeverTrap :
    atTheTop.fsm = .fetch ∧ undefinedOpcodes.contains atTheTop.opcodeByte = false := by decide

theorem witness_StepKeepsTheInvariant : atTheTop.Inv ∧ ∃ t, step atTheTop = .next t ∧ t.a = 0x80 :=
  ⟨⟨rfl, rfl, trivial, rfl⟩, _, rfl, rfl⟩

/-- An instruction in flight, a BRK before its second cycle, meets the invariant. -/
theorem witness_StepKeepsTheInvariant_inFlight :
    State.Inv { bench 0x0201 [] with fsm := .execute, brkFlag := true, latches := { Latches.dead with ir := 0x00, t := 2 } } :=
  ⟨rfl, rfl, rfl, rfl⟩

theorem witness_HostSessionsNeverFail : atTheTop.Inv ∧ atTheTop.cfg.illegalPolicy = .trap :=
  ⟨⟨rfl, rfl, trivial, rfl⟩, rfl⟩

/-- A platform with a ROM in the upper half. -/
def withRom : State :=
  { bench 0x0200 [(0x0200, 0x8D), (0x0202, 0x80), (0x8000, 0x33)] with
    mappings := [⟨0x0000, 0x7FFF, .ram⟩, ⟨0x8000, 0xBFFF, .rom⟩] }

theorem witness_StepsNeverChangeMappingsParametersOrRom : withRom.mem.wf = true ∧ (∃ t, step withRom = .next t) ∧
    withRom.deviceAt 0x8000 ≠ some .ram ∧ withRom.deviceAt 0xC000 ≠ some .ram :=
  ⟨rfl, ⟨_, rfl⟩, by decide, by decide⟩

/-- A program that has ended. -/
def ended : State := { bench 0x0200 [(0x0200, 0x4C), (0x0202, 0x02)] 0x24 with irqLine := true }

theorem witness_JumpToItselfEndsTheRun : ended.runOver ∧ ended.fetchesFromMemory = true ∧ ended.quiet :=
  ⟨⟨rfl, rfl⟩, rfl, rfl, .inr rfl⟩

theorem witness_ResetSequence : atTheTop.hostReset.fsm = .reset ∧ atTheTop.hostReset.latches.t = 1 ∧
    memoryBacked atTheTop.hostReset.mappings 0xFFFC = true ∧ memoryBacked atTheTop.hostReset.mappings 0xFFFD = true := by decide

/-- With nothing mapped the vector reads as `OPEN_BUS`, 0xFF by default, so PC is 0xFFFF (R325). -/
theorem witness_ResetSequence_unmapped : State.reset.fsm = .reset ∧ State.reset.latches.t = 1 ∧
    lookup State.reset.mappings 0xFFFC = none ∧ lookup State.reset.mappings 0xFFFD = none ∧
    after State.reset State.pc = some 0xFFFF := by decide

/-- An undefined byte at PC. -/
def atUndefined : State := bench 0x0200 [(0x0200, 0xFF)]

theorem witness_UndefinedByteTraps : atUndefined.fsm = .fetch ∧ undefinedOpcodes.contains atUndefined.opcodeByte = true ∧
    atUndefined.cfg.illegalPolicy = .trap ∧ undefinedOpcodes.contains 0x02 = true := by decide

/-- The same under the policy that has no rules. -/
def underEmulate : State := { atUndefined with cfg := { Config.default with illegalPolicy := .emulate } }

theorem witness_EmulateIsRefused : underEmulate.fsm = .fetch ∧ undefinedOpcodes.contains underEmulate.opcodeByte = true ∧
    underEmulate.cfg.illegalPolicy = .emulate := by decide

/-- A core that has trapped. -/
def trappedState : State := { atUndefined with fsm := .trapped }

theorem witness_TrappedIsLeftOnlyByReset : trappedState.fsm = .trapped ∧ HostOp.stepCycle ≠ .reset ∧
    HostOp.stepCycle.run trappedState = .next trappedState := ⟨rfl, by decide, rfl⟩

theorem witness_InterruptCheckPriorityAndMasking :
    State.nmiPending { atTheTop with nmiPending := true, irqLine := true } = true ∧
    (let s := { atTheTop with irqLine := true }
     s.nmiPending = false ∧ s.irqLine = true ∧ s.flags.i = false) ∧
    (ended.nmiPending = false ∧ ended.irqLine = true ∧ ended.flags.i = true) ∧
    (atTheTop.nmiPending = false ∧ atTheTop.irqLine = false ∧ atTheTop.flags.i = false) := by decide

theorem witness_InterruptEntry :
    (let s := { atTheTop with nmiPending := true, irqLine := true }
     s.mem.wf = true ∧ s.brkFlag = false ∧ s.nmiPending = true ∧ memoryBacked s.mappings 0xFFFA = true ∧
       memoryBacked s.mappings (0xFFFA + 1) = true) ∧
    (let s := { atTheTop with irqLine := true }
     s.mem.wf = true ∧ s.brkFlag = false ∧ s.nmiPending = false ∧ s.irqLine = true ∧ s.flags.i = false ∧
       memoryBacked s.mappings 0xFFFE = true ∧ memoryBacked s.mappings (0xFFFE + 1) = true) := by decide

/-- A platform whose page 0, stack page and vectors are unmapped (R325). -/
def romOnly : State := { withRom with mappings := [⟨0x8000, 0xBFFF, .rom⟩] }

theorem witness_InterruptEntry_unmapped :
    let s := { romOnly with nmiPending := true }
    s.mem.wf = true ∧ s.brkFlag = false ∧ s.nmiPending = true ∧ lookup s.mappings 0xFFFA = none ∧
      lookup s.mappings (0xFFFA + 1) = none := by decide

theorem witness_RequestsAreSampledOnlyAtInterruptCheck :
    (∃ t, stepCycle atTheTop = .next t ∧ t.fsm = .execute) ∧
    (∃ t, stepCycle { bench 0x0201 [] with fsm := .execute, latches := { Latches.dead with ir := 0x48, t := 2 } } = .next t ∧
      t.fsm = .execute) :=
  ⟨⟨_, rfl, rfl⟩, _, rfl, rfl⟩

/-- The last cycles of the interrupt entry and of the reset sequence, which no InterruptCheck follows (R283). -/
theorem witness_RequestsAreSampledOnlyAtInterruptCheck_sequences :
    (∃ s t, stepCycle s = .next t ∧ s.fsm = .interrupt ∧ t.fsm = .fetch ∧ s.fsm ≠ .execute) ∧
    (∃ s t, stepCycle s = .next t ∧ s.fsm = .reset ∧ t.fsm = .fetch ∧ s.fsm ≠ .execute) :=
  ⟨⟨{ bench 0x0200 [] with fsm := .interrupt, latches := { Latches.dead with t := 7, vector := 0xFFFA } }, _, rfl, rfl, rfl,
      by decide⟩,
    ⟨{ bench 0x0200 [] with fsm := .reset, latches := { Latches.dead with t := 7 } }, _, rfl, rfl, rfl, by decide⟩⟩

theorem witness_MemoryContents : Memory.wf [] = true ∧ Memory.wf [(0x0000, 0x01), (0xFFFF, 0xFF)] = true := by decide

theorem witness_LookupIsUniqueAndOrderFree : mappingsWf withRom.mappings = true ∧
    (⟨0x0000, 0x7FFF, .ram⟩ : Mapping) ∈ withRom.mappings ∧ covers ⟨0x0000, 0x7FFF, .ram⟩ 0x0000 = true ∧
    covers ⟨0x0000, 0x7FFF, .ram⟩ 0x7FFF = true ∧ withRom.mappings.Perm withRom.mappings.reverse :=
  ⟨rfl, by decide, by decide, by decide, (List.reverse_perm _).symm⟩

theorem witness_RegisterRefusesOverlaps_reversed : mappingsWf withRom.mappings = true ∧
    Mapping.stop ⟨0xC001, 0xC000, .ram⟩ < Mapping.start ⟨0xC001, 0xC000, .ram⟩ := by decide

theorem witness_RegisterRefusesOverlaps_meeting :
    Mapping.start ⟨0xBFFF, 0xFFFF, .ram⟩ ≤ Mapping.stop ⟨0xBFFF, 0xFFFF, .ram⟩ ∧
    ∃ n ∈ withRom.mappings, ∃ a : Word, covers ⟨0xBFFF, 0xFFFF, .ram⟩ a = true ∧ covers n a = true :=
  ⟨by decide, ⟨0x8000, 0xBFFF, .rom⟩, by decide, 0xBFFF, by decide, by decide⟩

theorem witness_RegisterRefusesOverlaps_disjoint :
    Mapping.start ⟨0xC000, 0xC000, .ram⟩ ≤ Mapping.stop ⟨0xC000, 0xC000, .ram⟩ ∧
    ∀ n ∈ withRom.mappings, ∀ a : Word, covers ⟨0xC000, 0xC000, .ram⟩ a = true → covers n a = false := by
  refine ⟨by decide, fun n hn a ha => ?_⟩
  have hn : n = ⟨0x0000, 0x7FFF, .ram⟩ ∨ n = ⟨0x8000, 0xBFFF, .rom⟩ := by simpa [withRom] using hn
  have ha : a = 0xC000 := by
    simp only [covers, Bool.and_eq_true, decide_eq_true_eq] at ha
    bv_omega
  subst ha
  rcases hn with rfl | rfl <;> decide

theorem witness_BusAccesses : withRom.mem.wf = true ∧ lookup withRom.mappings 0x7FFF = some .ram ∧
    lookup withRom.mappings 0x8000 = some .rom ∧ lookup withRom.mappings 0xC000 = none := by decide

theorem witness_OneDiagnosticPerUnmappedAccess : lookup withRom.mappings 0xC000 = none ∧
    lookup withRom.mappings 0xBFFF ≠ none ∧ lookup withRom.mappings withRom.pc ≠ none ∧
    lookup withRom.mappings (State.pc { withRom with pc := 0xC000 }) = none := by decide

theorem covers_everywhere (a : Word) : covers ⟨0x0000, 0xFFFF, .ram⟩ a = true := by
  simp only [covers, Bool.and_eq_true, decide_eq_true_eq]
  bv_omega

theorem deviceAt_bench (pc : Word) (mem : Memory) (p sp : Byte) (a : Word) :
    (bench pc mem p sp).deviceAt a = some .ram := if_pos (covers_everywhere a)

theorem witness_EffectiveAddressesThroughPageZero : memoryBacked atTheTop.mappings (BitVec.ofNat 16 (0xFF % 256)) = true ∧
    memoryBacked atTheTop.mappings (BitVec.ofNat 16 ((0xFF + 1) % 256)) = true ∧
    lookup romOnly.mappings (BitVec.ofNat 16 (0xFF % 256)) = none ∧
    lookup romOnly.mappings (BitVec.ofNat 16 ((0xFF + 1) % 256)) = none := by decide

/-- An instruction of each access class in each form that makes a dummy read (R86). -/
theorem witness_DummyReadsOfIndexedModes :
    (∀ i ∈ ([.lda (.zpx 0xFF), .ldx (.zpy 0xFF), .lda (.izx 0xFF), .lda (.abx 0xFFFF), .ldx (.aby 0xFFFF), .lda (.izy 0xFF),
        .sta (.zpx 0xFF), .stx (.zpy 0xFF), .sta (.izx 0xFF), .sta (.abx 0xFFFF), .sta (.aby 0xFFFF), .sta (.izy 0xFF),
        .inc (.zpx 0xFF), .inc (.abx 0xFFFF)] : List Instr), i.WellFormed ∧
      ((instrOperand? i).bind fun o => (resolve o atTheTop).map Resolution.ea).isSome = true) ∧
    operandCrosses (.abx 0xFFFF) { atTheTop with x := 0x01 } = true ∧ operandCrosses (.abx 0xFFFF) atTheTop = false := by decide

theorem witness_DecimalArithmetic : validBcd 0x99 ∧ validBcd 0x00 :=
  ⟨⟨by decide, by decide⟩, by decide, by decide⟩

theorem witness_LoadsComplete : Kind.lda.modes.contains (Operand.izx 0xFF).mode = true ∧
    Kind.ldx.modes.contains (Operand.aby 0xFFFF).mode = true ∧ Kind.ldy.modes.contains (Operand.imm 0x00).mode = true := by
  decide

theorem witness_OperandByte : operandAddress (.zpx 0xFF) atTheTop = some 0x00FF ∧
    memoryBacked atTheTop.mappings 0x00FF = true ∧ operandAddress (.abs 0xC000) withRom = some 0xC000 ∧
    lookup withRom.mappings 0xC000 = none := by decide

theorem witness_StoresComplete : atTheTop.mem.wf = true ∧ Kind.sta.modes.contains (Operand.izy 0xFF).mode = true ∧
    Kind.stx.modes.contains (Operand.zpy 0xFF).mode = true ∧ Kind.sty.modes.contains (Operand.abs 0xFFFF).mode = true ∧
    operandAddress (.izy 0xFF) atTheTop = some 0x8000 ∧ operandAddress (.zpy 0xFF) atTheTop = some 0x00FF ∧
    operandAddress (.abs 0xFFFF) atTheTop = some 0xFFFF := by decide

theorem witness_LogicCompletes : Kind.ora.modes.contains (Operand.abx 0xFFFF).mode = true ∧
    Kind.and.modes.contains (Operand.zp 0x00).mode = true ∧ Kind.eor.modes.contains (Operand.izy 0xFF).mode = true := by
  decide

theorem witness_AddAndSubtractComplete : Kind.adc.modes.contains (Operand.imm 0xFF).mode = true ∧
    Kind.sbc.modes.contains (Operand.izx 0xFF).mode = true ∧ atTheTop.flags.d = false := by decide

theorem witness_ComparesAndBitComplete : Kind.cmp.modes.contains (Operand.aby 0xFFFF).mode = true ∧
    Kind.cpx.modes.contains (Operand.imm 0x80).mode = true ∧ Kind.cpy.modes.contains (Operand.abs 0x0000).mode = true ∧
    Kind.bit.modes.contains (Operand.zp 0xFF).mode = true := by decide

theorem witness_MemoryModifiesComplete : atTheTop.mem.wf = true ∧ Operand.abx 0xFFFF ≠ .acc ∧
    Kind.asl.modes.contains (Operand.abx 0xFFFF).mode = true ∧ Kind.lsr.modes.contains (Operand.abx 0xFFFF).mode = true ∧
    Kind.rol.modes.contains (Operand.abx 0xFFFF).mode = true ∧ Kind.ror.modes.contains (Operand.abx 0xFFFF).mode = true ∧
    Kind.inc.modes.contains (Operand.abx 0xFFFF).mode = true ∧ Kind.dec.modes.contains (Operand.abx 0xFFFF).mode = true ∧
    operandAddress (.abx 0xFFFF) { atTheTop with x := 0x01 } = some 0x0000 := by decide

theorem witness_ModifyWritesTwice : operandAddress (.zpx 0xFF) { atTheTop with x := 0x01 } = some 0x0000 ∧
    Kind.asl.modes.contains (Operand.zpx 0xFF).mode = true ∧ Kind.dec.modes.contains (Operand.zpx 0xFF).mode = true := by
  decide

theorem witness_JumpsComplete : memoryBacked atTheTop.mappings 0x02FF = true ∧
    memoryBacked atTheTop.mappings (BitVec.ofNat 16 (0x02FF / 256 * 256 + (0x02FF + 1) % 256)) = true ∧
    lookup romOnly.mappings 0x02FF = none ∧
    lookup romOnly.mappings (BitVec.ofNat 16 (0x02FF / 256 * 256 + (0x02FF + 1) % 256)) = none := by decide

theorem witness_JsrCompletes : atTheTop.mem.wf = true ∧ memoryBacked atTheTop.mappings atTheTop.pc = true ∧
    romOnly.mem.wf = true ∧ lookup romOnly.mappings romOnly.pc = none := by decide

theorem witness_RtsCompletes : memoryBacked atTheTop.mappings (stackAddress (atTheTop.sp + 1)) = true ∧
    memoryBacked atTheTop.mappings (stackAddress (atTheTop.sp + 2)) = true ∧
    memoryBacked atTheTop.mappings (stackAddress (0xFF + 1)) = true ∧
    lookup romOnly.mappings (stackAddress (romOnly.sp + 1)) = none ∧
    lookup romOnly.mappings (stackAddress (romOnly.sp + 2)) = none := by decide

theorem witness_PushesComplete : atTheTop.mem.wf = true := rfl

theorem witness_PullsComplete : memoryBacked atTheTop.mappings (stackAddress (atTheTop.sp + 1)) = true ∧
    lookup romOnly.mappings (stackAddress (romOnly.sp + 1)) = none ∧ ∃ t, exec .plp atTheTop = .next t := ⟨rfl, rfl, _, rfl⟩

theorem witness_BrkCompletes : atTheTop.mem.wf = true ∧ memoryBacked atTheTop.mappings 0xFFFE = true ∧
    memoryBacked atTheTop.mappings (0xFFFE + 1) = true ∧ romOnly.mem.wf = true ∧ lookup romOnly.mappings 0xFFFE = none ∧
    lookup romOnly.mappings (0xFFFE + 1) = none := by decide

theorem witness_RtiCompletes : memoryBacked atTheTop.mappings (stackAddress (atTheTop.sp + 1)) = true ∧
    memoryBacked atTheTop.mappings (stackAddress (atTheTop.sp + 2)) = true ∧
    memoryBacked atTheTop.mappings (stackAddress (atTheTop.sp + 3)) = true ∧
    lookup romOnly.mappings (stackAddress (romOnly.sp + 1)) = none ∧
    lookup romOnly.mappings (stackAddress (romOnly.sp + 2)) = none ∧
    lookup romOnly.mappings (stackAddress (romOnly.sp + 3)) = none := by decide

/-- After each call there is a state to return from: the one the call leaves. -/
theorem witness_ReturnsUndoCalls : atTheTop.mem.wf = true ∧
    (∀ sp : Byte, atTheTop.deviceAt (stackAddress sp) = some .ram) ∧
    (∃ t v : State, exec .brk atTheTop = .next t ∧ v.sp = t.sp ∧ v.mem = t.mem ∧ v.mappings = t.mappings) ∧
    (∃ t v : State, exec (.jsr 0x0300) atTheTop = .next t ∧ v.sp = t.sp ∧ v.mem = t.mem ∧ v.mappings = t.mappings) ∧
    (∃ t v : State, exec .pha atTheTop = .next t ∧ v.sp = t.sp ∧ v.mem = t.mem ∧ v.mappings = t.mappings) ∧
    (∃ t v : State, exec .php atTheTop = .next t ∧ v.sp = t.sp ∧ v.mem = t.mem ∧ v.mappings = t.mappings) :=
  ⟨rfl, fun _ => deviceAt_bench .., ⟨_, _, rfl, rfl, rfl, rfl⟩, ⟨_, _, rfl, rfl, rfl, rfl⟩, ⟨_, _, rfl, rfl, rfl, rfl⟩,
    ⟨_, _, rfl, rfl, rfl, rfl⟩⟩

theorem witness_FormsOutsideTheTableAreRefused : ¬ (Instr.sta (.imm 0x80)).WellFormed ∧ ¬ (Instr.ill 0xEA).WellFormed := by
  decide

/-- The result of an instruction, for the witnesses of the whole-set statements. -/
def ran (i : Instr) (s : State) : State :=
  match exec i s with
  | .next t => t
  | .fault _ => s
  | .refused _ => s

theorem witness_FlagsAreWrittenOnlyByTheListedInstructions :
    (ran (.lda (.imm 0x80)) atTheTop).flags.n ≠ atTheTop.flags.n ∧ (ran (.lda (.imm 0x00)) atTheTop).flags.z ≠ atTheTop.flags.z ∧
    (ran (.adc (.imm 0x7F)) { atTheTop with a := 0x7F }).flags.v ≠ atTheTop.flags.v ∧
    (ran .sed atTheTop).flags.d ≠ atTheTop.flags.d ∧ (ran .brk atTheTop).flags.i ≠ atTheTop.flags.i ∧
    (ran .sec atTheTop).flags.c ≠ atTheTop.flags.c ∧ exec .sec atTheTop = .next (ran .sec atTheTop) :=
  ⟨by decide, by decide, by decide, by decide, by decide, by decide, rfl⟩

theorem witness_RegistersAreWrittenOnlyByTheListedInstructions :
    (ran (.lda (.imm 0x80)) atTheTop).a ≠ atTheTop.a ∧ (ran (.asl .acc) { atTheTop with a := 0x01 }).a ≠ 0x01 ∧
    (ran .inx atTheTop).x ≠ atTheTop.x ∧ (ran .dey atTheTop).y ≠ atTheTop.y ∧ (ran .txs atTheTop).sp ≠ atTheTop.sp ∧
    (ran (.bne 0x01) atTheTop).pc ≠ atTheTop.pc ∧
    (ran .php atTheTop).mem.read 0x01FD ≠ atTheTop.mem.read 0x01FD ∧ exec .php atTheTop = .next (ran .php atTheTop) :=
  ⟨by decide, by decide, by decide, by decide, by decide, by decide, by decide, rfl⟩

end Sys2Proof.Machine.Tests
end

section
/-! SUPPORT. What no step changes. The parameters, the mappings and the device memory are read off a state as its platform; most
operations leave the platform as it is, and the others write single bytes over the bus, which reach RAM only. The relation
`KeepsPlatform` says this once and is closed under composition, so that it goes from one cycle to a whole step. -/

namespace Sys2Proof.Machine

/-! ## The platform of a state -/

/-- The part of the state that is the platform: the parameters, the bus map and what the memory devices hold (R8, R35, R53). -/
structure Platform where
  cfg : Config
  mappings : List Mapping
  mem : Memory

/-- The platform of a state. -/
def State.platform (s : State) : Platform where
  cfg := s.cfg
  mappings := s.mappings
  mem := s.mem

/-- From the first state to the second nothing but RAM changes: parameters and mappings are the same, canonical memory stays
canonical, and every byte that is not in RAM reads as before. -/
structure KeepsPlatform (s t : State) : Prop where
  cfg : t.cfg = s.cfg
  mappings : t.mappings = s.mappings
  memWf : s.mem.wf = true → t.mem.wf = true
  outsideRam : s.mem.wf = true → ∀ a : Word, s.deviceAt a ≠ some .ram → t.mem.read a.toNat = s.mem.read a.toNat

theorem KeepsPlatform.of_eq {s t : State} (h : t.platform = s.platform) : KeepsPlatform s t := by
  simp only [State.platform, Platform.mk.injEq] at h
  obtain ⟨hc, hm, hmem⟩ := h
  exact ⟨hc, hm, fun hw => hmem ▸ hw, fun _ _ _ => by rw [hmem]⟩

theorem KeepsPlatform.refl (s : State) : KeepsPlatform s s := .of_eq rfl

theorem KeepsPlatform.trans {s t u : State} (h : KeepsPlatform s t) (h' : KeepsPlatform t u) : KeepsPlatform s u where
  cfg := h'.cfg.trans h.cfg
  mappings := h'.mappings.trans h.mappings
  memWf hw := h'.memWf (h.memWf hw)
  outsideRam hw a ha := by
    have hd : t.deviceAt a = s.deviceAt a := by unfold State.deviceAt; rw [h.mappings]
    exact (h'.outsideRam (h.memWf hw) a (hd ▸ ha)).trans (h.outsideRam hw a ha)

/-- A last operation that leaves the platform alone. -/
theorem KeepsPlatform.then_eq {s t u : State} (h : KeepsPlatform s t) (hu : u.platform = t.platform) : KeepsPlatform s u :=
  h.trans (.of_eq hu)

/-- A first and a last operation that leave the platform alone. -/
theorem KeepsPlatform.between_eq {s t u v : State} (h : KeepsPlatform t u) (ht : t.platform = s.platform)
    (hv : v.platform = u.platform) : KeepsPlatform s v :=
  (KeepsPlatform.of_eq ht).trans (h.then_eq hv)

/-! ## Bus operations -/

theorem BusOnly.platform {s t : State} (h : BusOnly s t) : t.platform = s.platform := by
  obtain ⟨tr, dg, rfl⟩ := h
  rfl

@[simp] theorem platform_readOperand (s : State) (a : Word) : (s.readOperand a).platform = s.platform := rfl

@[simp] theorem platform_internalCycle (s : State) : s.internalCycle.platform = s.platform := rfl

@[simp] theorem platform_fetchByte (s : State) : s.fetchByte.platform = s.platform := rfl

@[simp] theorem platform_afterOpcode (s : State) : s.afterOpcode.platform = s.platform := rfl

@[simp] theorem platform_popSp (s : State) : s.popSp.platform = s.platform := rfl

@[simp] theorem platform_readStack (s : State) : s.readStack.platform = s.platform := rfl

@[simp] theorem platform_endInstruction (s : State) : s.endInstruction.platform = s.platform := rfl

/-- Only a RAM stores what is written to it (R53, R57). -/
theorem memAfterWrite_of_not_ram {s : State} {a : Word} (v : Byte) (hd : s.deviceAt a ≠ some .ram) :
    s.memAfterWrite a v = s.mem := by
  unfold State.memAfterWrite
  split
  · rename_i h
    exact absurd h hd
  · rfl
  · rfl
  · rfl

/-- A bus write reaches a byte of RAM or no byte at all (R53, R57). -/
theorem keepsPlatform_writeOperand (s : State) (a : Word) (v : Byte) : KeepsPlatform s (s.writeOperand a v) where
  cfg := rfl
  mappings := rfl
  memWf hw := State.memAfterWrite_wf hw a v
  outsideRam hw x hx := by
    rw [writeOperand_mem]
    by_cases hax : a = x
    · subst hax
      rw [memAfterWrite_of_not_ram v hx]
    · exact State.memAfterWrite_other hw v fun h => hax (BitVec.eq_of_toNat_eq h)

theorem keepsPlatform_push (s : State) (v : Byte) : KeepsPlatform s (s.push v) :=
  (keepsPlatform_writeOperand s _ v).then_eq rfl

theorem keepsPlatform_pushPcHigh (s : State) : KeepsPlatform s s.pushPcHigh := keepsPlatform_push s (highByte s.pc)

theorem keepsPlatform_pushPcLow (s : State) : KeepsPlatform s s.pushPcLow := keepsPlatform_push s (lowByte s.pc)

theorem keepsPlatform_pushStatus (s : State) : KeepsPlatform s s.pushStatus :=
  (keepsPlatform_push s (pPush s.flags s.brkFlag)).then_eq rfl

theorem platform_loadVector (s : State) (vector : Word) : (s.loadVector vector).platform = s.platform := rfl

theorem keepsPlatform_enterVector (s : State) (vector : Word) : KeepsPlatform s (s.enterVector vector) :=
  (((keepsPlatform_pushPcHigh s).trans (keepsPlatform_pushPcLow _)).trans (keepsPlatform_pushStatus _)).then_eq
    (platform_loadVector _ vector)

theorem keepsPlatform_jsrPush (s : State) : KeepsPlatform s s.jsrPush :=
  ((keepsPlatform_pushPcHigh s.internalCycle).trans (keepsPlatform_pushPcLow _)).between_eq rfl rfl

theorem platform_interruptCheck (s : State) : s.interruptCheck.platform = s.platform := by
  unfold State.interruptCheck
  split
  · rfl
  · split <;> rfl

theorem keepsPlatform_interruptSequence (s : State) : KeepsPlatform s s.interruptSequence :=
  (keepsPlatform_enterVector s.internalCycle.internalCycle s.latches.vector).between_eq (by simp)
    (platform_endInstruction _)

theorem keepsPlatform_serviceInterrupts (s : State) : KeepsPlatform s s.serviceInterrupts := by
  have hc : KeepsPlatform s s.interruptCheck := .of_eq (platform_interruptCheck s)
  unfold State.serviceInterrupts
  dsimp only
  split
  · exact hc.trans (keepsPlatform_interruptSequence _)
  · exact hc

/-! ## Instructions -/

/-- The state an outcome gives: the next state, or the one it started from when the machine stops. -/
def stateAfter (s : State) : Host.Outcome State Fault Refusal → State
  | .next t => t
  | .fault _ => s
  | .refused _ => s

@[simp] theorem platform_done (s u : State) : (stateAfter s (done u)).platform = u.platform := rfl

/-- The trap leaves the platform to the cycles before it (R296). -/
theorem platform_illegalOpcode (opcode : Byte) {s t : State} (h : t.platform = s.platform) :
    (stateAfter s (illegalOpcode opcode t)).platform = s.platform := by
  unfold illegalOpcode
  split
  · exact h
  · rfl

theorem platform_execIll (opcode : Byte) (s : State) : (stateAfter s (execIll opcode s)).platform = s.platform := by
  unfold execIll
  split
  · exact platform_illegalOpcode opcode rfl
  · rfl

theorem platform_execJmp (o : Operand) (s : State) : (stateAfter s (execJmp o s)).platform = s.platform := by
  cases o <;> rfl

theorem platform_impliedClass {op : State → State} (s : State) (hop : ∀ u, (op u).platform = u.platform) :
    (stateAfter s (impliedClass op s)).platform = s.platform := hop s.internalCycle

theorem platform_pullClass {op : Byte → State → State} (s : State) (hop : ∀ b u, (op b u).platform = u.platform) :
    (stateAfter s (pullClass op s)).platform = s.platform := by
  simp [pullClass, hop]

theorem platform_branchClass (cond : Bool) (off : Byte) (s : State) :
    (stateAfter s (branchClass cond off s)).platform = s.platform := by
  obtain ⟨u, hu, h⟩ := branchClass_next cond off s
  rw [h]
  exact hu.platform

theorem platform_readClass (k : Kind) (o : Operand) {op : Byte → State → State} (s : State)
    (hop : ∀ b u, (op b u).platform = u.platform) : (stateAfter s (readClass k o op s)).platform = s.platform := by
  unfold readClass ifFormed
  split
  · split
    · exact hop _ s
    · split
      · rename_i r hr
        have hread : BusOnly s r.read :=
          ((resolve_busOnly hr).trans r.beforeRead_busOnly).trans (busOnly_readOperand ..)
        exact (hop _ _).trans hread.platform
      · rfl
  · rfl

/-- The resolver and the dummy read before a write (R120, R128). -/
theorem platform_beforeWrite {o : Operand} {s : State} {r : Resolution} (hr : resolve o s = some r) :
    r.beforeWrite.platform = s.platform :=
  ((resolve_busOnly hr).trans r.beforeWrite_busOnly).platform

theorem keepsPlatform_writeClass (k : Kind) (o : Operand) (v : Byte) (s : State) :
    KeepsPlatform s (stateAfter s (writeClass k o v s)) := by
  unfold writeClass ifFormed
  split
  · split
    · rename_i r hr
      exact ((KeepsPlatform.of_eq (platform_beforeWrite hr)).trans (keepsPlatform_writeOperand r.beforeWrite r.ea v)).then_eq rfl
    · exact .refl s
  · exact .refl s

/-- The read and the two writes of a read-modify-write instruction (R144). -/
theorem keepsPlatform_onMemory (op : ModifyOp) (r : Resolution) : KeepsPlatform r.beforeWrite (op.onMemory r) :=
  ((keepsPlatform_writeOperand (r.beforeWrite.readOperand r.ea) r.ea (r.beforeWrite.busValue r.ea)).trans
    (keepsPlatform_writeOperand _ r.ea (op.value r.beforeWrite.flags (r.beforeWrite.busValue r.ea)))).between_eq rfl rfl

theorem keepsPlatform_modifyClass (k : Kind) (o : Operand) (op : ModifyOp) (s : State) :
    KeepsPlatform s (stateAfter s (modifyClass k o op s)) := by
  unfold modifyClass ifFormed
  split
  · split
    · exact .of_eq rfl
    · split
      · rename_i r hr
        exact ((KeepsPlatform.of_eq (platform_beforeWrite hr)).trans (keepsPlatform_onMemory op r)).then_eq rfl
      · exact .refl s
  · exact .refl s

theorem keepsPlatform_pushClass (v : Byte) (s : State) : KeepsPlatform s (stateAfter s (pushClass v s)) :=
  (keepsPlatform_push s.internalCycle v).between_eq rfl rfl

theorem keepsPlatform_execJsr (target : Word) (s : State) : KeepsPlatform s (stateAfter s (execJsr target s)) :=
  (keepsPlatform_jsrPush s).then_eq rfl

theorem keepsPlatform_execBrk (s : State) : KeepsPlatform s (stateAfter s (execBrk s)) :=
  (keepsPlatform_enterVector s.raiseBrkFlag.internalCycle.advancePc irqVector).between_eq rfl
    (platform_done _ _)

/-- RTS pulls two bytes and writes none (R157). -/
theorem platform_execRts (s : State) : (stateAfter s (execRts s)).platform = s.platform := by
  simp [execRts, done, stateAfter, State.platform]

/-- RTI pulls three bytes and writes none (R158). -/
theorem platform_execRti (s : State) : (stateAfter s (execRti s)).platform = s.platform := by
  simp [execRti, State.returnFromInterrupt, done, stateAfter, State.platform]

/-- Every instruction keeps the platform: by its access class or its own template. -/
theorem keepsPlatform_exec (i : Instr) (s : State) : KeepsPlatform s (stateAfter s (exec i s)) := by
  cases i with
  | lda o | ldx o | ldy o | ora o | and o | eor o | adc o | sbc o | cmp o | cpx o | cpy o | bit o =>
    exact .of_eq (platform_readClass _ o s fun _ _ => rfl)
  | sta o | stx o | sty o => exact keepsPlatform_writeClass _ o _ s
  | asl o | lsr o | rol o | ror o | inc o | dec o => exact keepsPlatform_modifyClass _ o _ s
  | bpl off | bmi off | bvc off | bvs off | bcc off | bcs off | bne off | beq off =>
    exact .of_eq (platform_branchClass _ off s)
  | jmp o => exact .of_eq (platform_execJmp o s)
  | jsr target => exact keepsPlatform_execJsr target s
  | pha | php => exact keepsPlatform_pushClass _ s
  | brk => exact keepsPlatform_execBrk s
  | ill opcode => exact .of_eq (platform_execIll opcode s)
  | rts => exact .of_eq (platform_execRts s)
  | rti => exact .of_eq (platform_execRti s)
  | pla | plp => exact .of_eq (platform_pullClass s fun _ _ => rfl)
  | tax | tay | txa | tya | tsx | txs | inx | iny | dex | dey | clc | sec | cli | sei | clv | cld | sed | nop =>
    exact .of_eq (platform_impliedClass s fun _ => rfl)

theorem platform_fetchFor (i : Instr) (s : State) : (s.fetchFor i).platform = s.platform := by
  unfold State.fetchFor
  split
  · rfl
  · simp
  · split <;> simp

/-! ## Cycles -/

/-- The state a row of a template gives; the one it started from where there is no such row. -/
def Cycle.stateAfter (s : State) : Cycle → State
  | .more t => t
  | .last t => t
  | .noRow => s

/-- The operation an access class commits leaves the platform alone. -/
def Access.SparesPlatform : Access → Prop
  | .read op => ∀ b u, (op b u).platform = u.platform
  | .write _ => True
  | .modify _ => True

theorem kindAccess_sparesPlatform {k : Kind} {acc : Access} (h : kindAccess k = some acc) : acc.SparesPlatform := by
  cases k <;> cases h
  case lda | ldx | ldy | ora | and | eor | adc | sbc | cmp | cpx | cpy | bit => exact fun _ _ => rfl
  all_goals trivial

theorem kindImpliedOp_platform {k : Kind} {op : State → State} (h : kindImpliedOp k = some op) (s : State) :
    (op s).platform = s.platform := by
  cases k <;> cases h <;> rfl

theorem platform_cycleAcc (acc : Access) (s : State) : ((cycleAcc acc s).stateAfter s).platform = s.platform := by
  unfold cycleAcc
  split <;> rfl

section
variable {acc : Access} (hacc : acc.SparesPlatform)
include hacc

theorem keepsPlatform_accessTail (j : Nat) (s : State) : KeepsPlatform s ((accessTail acc j s).stateAfter s) := by
  unfold accessTail
  split
  · exact .of_eq (hacc _ _)
  · exact keepsPlatform_writeOperand ..
  · exact .of_eq rfl
  · exact keepsPlatform_writeOperand ..
  · exact (keepsPlatform_writeOperand ..).then_eq rfl
  · exact .refl s

theorem keepsPlatform_indexedTail (s : State) : KeepsPlatform s ((indexedTail acc s).stateAfter s) := by
  unfold indexedTail
  split
  · exact keepsPlatform_accessTail hacc 0 s
  · exact .of_eq rfl

theorem keepsPlatform_afterDummy (j : Nat) (s : State) : KeepsPlatform s ((afterDummy acc j s).stateAfter s) := by
  unfold afterDummy
  split
  · exact .refl s
  · exact keepsPlatform_accessTail hacc j s

theorem keepsPlatform_cycleZp (s : State) : KeepsPlatform s ((cycleZp acc s).stateAfter s) := by
  unfold cycleZp
  split
  case h_1 | h_2 | h_3 => exact .of_eq rfl
  case h_4 => exact keepsPlatform_accessTail hacc _ s

theorem keepsPlatform_cycleZpi (idx : Byte) (s : State) : KeepsPlatform s ((cycleZpi acc idx s).stateAfter s) := by
  unfold cycleZpi
  split
  case h_1 | h_2 | h_3 | h_4 => exact .of_eq rfl
  case h_5 => exact keepsPlatform_accessTail hacc _ s

theorem keepsPlatform_cycleAbs (s : State) : KeepsPlatform s ((cycleAbs acc s).stateAfter s) := by
  unfold cycleAbs
  split
  case h_1 | h_2 | h_3 | h_4 => exact .of_eq rfl
  case h_5 => exact keepsPlatform_accessTail hacc _ s

theorem keepsPlatform_cycleAbi (idx : Byte) (s : State) : KeepsPlatform s ((cycleAbi acc idx s).stateAfter s) := by
  unfold cycleAbi
  split
  case h_1 | h_2 | h_3 | h_4 => exact .of_eq rfl
  case h_5 => exact keepsPlatform_indexedTail hacc s
  case h_6 => exact keepsPlatform_afterDummy hacc _ s

theorem keepsPlatform_cycleIzx (s : State) : KeepsPlatform s ((cycleIzx acc s).stateAfter s) := by
  unfold cycleIzx
  dsimp only
  split
  case h_1 | h_2 | h_3 | h_4 | h_5 | h_6 => exact .of_eq rfl
  case h_7 => exact keepsPlatform_accessTail hacc _ s

theorem keepsPlatform_cycleIzy (s : State) : KeepsPlatform s ((cycleIzy acc s).stateAfter s) := by
  unfold cycleIzy
  dsimp only
  split
  case h_1 | h_2 | h_3 | h_4 | h_5 => exact .of_eq rfl
  case h_6 => exact keepsPlatform_indexedTail hacc s
  case h_7 => exact keepsPlatform_afterDummy hacc _ s

theorem platform_cycleImm (s : State) : ((cycleImm acc s).stateAfter s).platform = s.platform := by
  unfold cycleImm
  split
  · exact hacc _ _
  · rfl

/-- The template of every mode keeps the platform (R166). -/
theorem keepsPlatform_cycleAccess (m : Mode) (s : State) : KeepsPlatform s ((cycleAccess acc m s).stateAfter s) := by
  cases m with
  | imp | ind | rel => exact .refl s
  | acc => exact .of_eq (platform_cycleAcc acc s)
  | imm => exact .of_eq (platform_cycleImm hacc s)
  | zp => exact keepsPlatform_cycleZp hacc s
  | zpx | zpy => exact keepsPlatform_cycleZpi hacc _ s
  | abs => exact keepsPlatform_cycleAbs hacc s
  | abx | aby => exact keepsPlatform_cycleAbi hacc _ s
  | izx => exact keepsPlatform_cycleIzx hacc s
  | izy => exact keepsPlatform_cycleIzy hacc s

end

/-! ## Templates of their own (R153 to R163) -/

theorem platform_cycleImp {op : State → State} (hop : ∀ u, (op u).platform = u.platform) (s : State) :
    ((cycleImp op s).stateAfter s).platform = s.platform := by
  unfold cycleImp
  split
  · exact hop _
  · rfl

theorem platform_cycleRel (cond : Flags → Bool) (s : State) : ((cycleRel cond s).stateAfter s).platform = s.platform := by
  unfold cycleRel
  split
  · split <;> rfl
  · rfl
  · rfl
  · rfl
  · rfl

theorem platform_cycleJmpAbs (s : State) : ((cycleJmpAbs s).stateAfter s).platform = s.platform := by
  unfold cycleJmpAbs
  split <;> rfl

theorem platform_cycleJmpInd (s : State) : ((cycleJmpInd s).stateAfter s).platform = s.platform := by
  unfold cycleJmpInd
  dsimp only
  split <;> rfl

theorem keepsPlatform_cycleJsr (s : State) : KeepsPlatform s ((cycleJsr s).stateAfter s) := by
  unfold cycleJsr
  split
  case h_1 | h_2 | h_5 | h_6 => exact .of_eq rfl
  case h_3 => exact keepsPlatform_pushPcHigh s
  case h_4 => exact keepsPlatform_pushPcLow s

theorem platform_cycleRts (s : State) : ((cycleRts s).stateAfter s).platform = s.platform := by
  unfold cycleRts
  split <;> rfl

theorem platform_cycleRti (s : State) : ((cycleRti s).stateAfter s).platform = s.platform := by
  unfold cycleRti
  split <;> rfl

theorem keepsPlatform_cyclePush (v : State → Byte) (s : State) : KeepsPlatform s ((cyclePush v s).stateAfter s) := by
  unfold cyclePush
  split
  · exact .of_eq rfl
  · exact keepsPlatform_push s (v s)
  · exact .refl s

theorem platform_cyclePull (op : Byte → State → State) (hop : ∀ b u, (op b u).platform = u.platform) (s : State) :
    ((cyclePull op s).stateAfter s).platform = s.platform := by
  unfold cyclePull
  split
  · rfl
  · rfl
  · exact hop _ _
  · rfl

theorem keepsPlatform_cycleEntry (vector : Word) (s : State) : KeepsPlatform s ((cycleEntry vector s).stateAfter s) := by
  unfold cycleEntry
  split
  case h_1 => exact keepsPlatform_pushPcHigh s
  case h_2 => exact keepsPlatform_pushPcLow s
  case h_3 => exact keepsPlatform_pushStatus s
  case h_4 | h_5 | h_6 => exact .of_eq rfl

theorem keepsPlatform_cycleBrk (s : State) : KeepsPlatform s ((cycleBrk s).stateAfter s) := by
  unfold cycleBrk
  split
  · exact .of_eq rfl
  · exact keepsPlatform_cycleEntry irqVector s

theorem keepsPlatform_cycleInt (s : State) : KeepsPlatform s ((cycleInt s).stateAfter s) := by
  unfold cycleInt
  split
  · exact .of_eq rfl
  · exact .of_eq rfl
  · exact keepsPlatform_cycleEntry _ s

theorem platform_cycleReset (s : State) : ((cycleReset s).stateAfter s).platform = s.platform := by
  unfold cycleReset
  split <;> rfl

theorem keepsPlatform_cycleOther (k : Kind) (m : Mode) (s : State) : KeepsPlatform s ((cycleOther k m s).stateAfter s) := by
  unfold cycleOther
  split
  · split
    · exact .of_eq (platform_cycleJmpInd s)
    · exact .of_eq (platform_cycleJmpAbs s)
  · exact keepsPlatform_cycleJsr s
  · exact .of_eq (platform_cycleRts s)
  · exact .of_eq (platform_cycleRti s)
  · exact keepsPlatform_cycleBrk s
  · exact keepsPlatform_cyclePush _ s
  · exact keepsPlatform_cyclePush _ s
  · exact .of_eq (platform_cyclePull State.loadA (fun _ _ => rfl) s)
  · exact .of_eq (platform_cyclePull State.pullFlags (fun _ _ => rfl) s)
  · split
    · rename_i op _ hop
      exact .of_eq (platform_cycleImp (kindImpliedOp_platform hop) s)
    · exact .of_eq (platform_cycleRel _ s)
    · exact .refl s

theorem keepsPlatform_executeCycle (k : Kind) (m : Mode) (s : State) :
    KeepsPlatform s ((executeCycle k m s).stateAfter s) := by
  unfold executeCycle
  split
  · rename_i acc hacc
    exact keepsPlatform_cycleAccess (kindAccess_sparesPlatform hacc) m s
  · exact keepsPlatform_cycleOther k m s

/-! ## Runs of cycles and steps -/

/-- What ends a row leaves the platform to the row. -/
theorem platform_outcome {fin : State → State} (hfin : ∀ u, (fin u).platform = u.platform) (c : Cycle) (s : State) :
    (stateAfter s (c.outcome fin)).platform = (c.stateAfter s).platform := by
  cases c with
  | more t => rfl
  | last t => exact hfin t
  | noRow => rfl

theorem platform_fetchCycle (s : State) : (stateAfter s (fetchCycle s)).platform = s.platform := by
  unfold fetchCycle
  dsimp only
  split
  · exact platform_illegalOpcode _ rfl
  · rfl

/-- One cycle keeps the platform, whatever the FSM state and the latches (R104). -/
theorem keepsPlatform_stepCycle (s : State) : KeepsPlatform s (stateAfter s (stepCycle s)) := by
  unfold stepCycle
  split
  · exact .refl s
  · exact .of_eq ((platform_outcome platform_endInstruction _ s).trans (platform_cycleReset s))
  · exact (keepsPlatform_cycleInt s).then_eq (platform_outcome platform_endInstruction _ s)
  · exact .of_eq (platform_fetchCycle s)
  · exact (keepsPlatform_executeCycle _ _ s).then_eq
      (platform_outcome (fun u => platform_interruptCheck u.endInstruction) _ s)

theorem keepsPlatform_runCycles {fuel : Nat} {s t : State} (h : runCycles fuel s = .next t) : KeepsPlatform s t := by
  induction fuel generalizing s with
  | zero => simp [runCycles] at h
  | succ fuel ih =>
    have hcycle := keepsPlatform_stepCycle s
    unfold runCycles at h
    split at h
    · rename_i u hu
      rw [hu] at hcycle
      split at h
      · cases h
        exact hcycle
      · exact hcycle.trans (ih h)
    · cases h
    · cases h

/-- What follows an instruction keeps the platform as the instruction does (R105). -/
theorem keepsPlatform_afterInstruction {s t : State} {r : Host.Outcome State Fault Refusal}
    (hr : KeepsPlatform s (stateAfter s r)) (h : afterInstruction r = .next t) : KeepsPlatform s t := by
  cases r with
  | next u =>
    cases h
    split
    · exact hr
    · exact hr.trans (keepsPlatform_serviceInterrupts u)
  | fault e => cases h
  | refused e => cases h

theorem keepsPlatform_executeInstruction {s t : State} (h : executeInstruction s = .next t) : KeepsPlatform s t := by
  unfold executeInstruction at h
  split at h
  · cases h
    exact .refl s
  all_goals exact keepsPlatform_runCycles h

/-- A step keeps the platform: one instruction and what follows it, or the cycles left to the boundary (R103). -/
theorem keepsPlatform_step {s t : State} (h : step s = .next t) : KeepsPlatform s t := by
  unfold step at h
  split at h
  case h_1 =>
    exact (KeepsPlatform.of_eq (platform_fetchFor _ s)).trans (keepsPlatform_afterInstruction (keepsPlatform_exec _ _) h)
  case h_2 | h_3 | h_4 => exact keepsPlatform_executeInstruction h
  case h_5 => cases h

/-- Settles O15: the platform is kept by every step, and `KeepsPlatform` says what that means for a byte outside RAM. -/
theorem stepsNeverChangeMappingsParametersOrRom : Obligations.StepsNeverChangeMappingsParametersOrRom := by
  intro s t hw h
  have hkeeps := keepsPlatform_step h
  exact ⟨hkeeps.cfg, hkeeps.mappings, hkeeps.outsideRam hw⟩

end Sys2Proof.Machine
end

section
/-! SUPPORT. What an instruction can answer, read backwards: for each access class and template the shape of the state it ends in,
and from these that every instruction ends at a boundary or is the trap. -/

namespace Sys2Proof.Machine

/-! ## What the access classes answer -/

/-- The read class answers only with its operation applied to a byte, after bus reads (R144). -/
theorem readClass_cases {k : Kind} {o : Operand} {op : Byte → State → State} {s t : State}
    (h : readClass k o op s = .next t) : ∃ m u, BusOnly s u ∧ t = (op m u).endInstruction := by
  unfold readClass ifFormed at h
  split at h
  · split at h
    · cases h
      exact ⟨_, s, .refl s, rfl⟩
    · split at h
      · rename_i r hr
        cases h
        exact ⟨r.value, r.read, ((resolve_busOnly hr).trans r.beforeRead_busOnly).trans (busOnly_readOperand ..), rfl⟩
      · cases h
  · cases h

/-- The write class answers only with its one write made, after bus reads (R144). -/
theorem writeClass_cases {k : Kind} {o : Operand} {v : Byte} {s t : State} (h : writeClass k o v s = .next t) :
    ∃ u ea, BusOnly s u ∧ t = (u.writeOperand ea v).endInstruction := by
  unfold writeClass ifFormed at h
  split at h
  · split at h
    · rename_i r hr
      cases h
      exact ⟨r.beforeWrite, r.ea, (resolve_busOnly hr).trans r.beforeWrite_busOnly, rfl⟩
    · cases h
  · cases h

/-- The read-modify-write class answers on the accumulator, where the instruction has that form, or on memory (R144, R220). -/
theorem modifyClass_cases {k : Kind} {o : Operand} {op : ModifyOp} {s t : State} (h : modifyClass k o op s = .next t) :
    (o = .acc ∧ k.modes.contains .acc = true ∧ t = (op.onAccumulator s).endInstruction) ∨
      ∃ r : Resolution, BusOnly s r.beforeWrite ∧ t = (op.onMemory r).endInstruction := by
  unfold modifyClass ifFormed at h
  split at h
  · rename_i hk
    split at h
    · cases h
      exact .inl ⟨rfl, hk, rfl⟩
    · split at h
      · rename_i r hr
        cases h
        exact .inr ⟨r, (resolve_busOnly hr).trans r.beforeWrite_busOnly, rfl⟩
      · cases h
  · cases h

/-- JMP answers only for the two forms it has (R240). -/
theorem execJmp_cases {o : Operand} {s t : State} (h : execJmp o s = .next t) :
    ∃ u pc, BusOnly s u ∧ t = { u with pc := pc }.endInstruction := by
  unfold execJmp at h
  split at h
  · cases h
    exact ⟨s, _, .refl s, rfl⟩
  · cases h
    exact ⟨_, _, busOnly_readIndirect s _, rfl⟩
  · cases h

/-- A branch changes nothing but PC and the logs (R153, R251). -/
theorem branchClass_cases {cond : Bool} {off : Byte} {s t : State} (h : branchClass cond off s = .next t) :
    ∃ u pc, BusOnly s u ∧ t = { u with pc := pc }.endInstruction := by
  obtain ⟨u, hu, hn⟩ := branchClass_next cond off s
  rw [hn] at h
  cases h
  exact ⟨u, _, hu, rfl⟩

/-- An undefined byte answers only with the trap (R296). -/
theorem execIll_cases {opcode : Byte} {s t : State} (h : execIll opcode s = .next t) : t = s.raiseIllegalOpcode opcode := by
  unfold execIll illegalOpcode at h
  split at h
  · split at h <;> cases h
    rfl
  · cases h

/-- An instruction ends at a boundary or is the trap (R103, R296). -/
theorem exec_ends {i : Instr} {s t : State} (h : exec i s = .next t) :
    (∃ u : State, t = u.endInstruction) ∨ ∃ opcode, t = s.raiseIllegalOpcode opcode := by
  cases i with
  | lda o | ldx o | ldy o | ora o | and o | eor o | adc o | sbc o | cmp o | cpx o | cpy o | bit o =>
    obtain ⟨m, u, -, ht⟩ := readClass_cases h
    exact .inl ⟨_, ht⟩
  | sta o | stx o | sty o =>
    obtain ⟨u, ea, -, ht⟩ := writeClass_cases h
    exact .inl ⟨_, ht⟩
  | asl o | lsr o | rol o | ror o | inc o | dec o =>
    obtain ⟨-, -, ht⟩ | ⟨r, -, ht⟩ := modifyClass_cases h
    · exact .inl ⟨_, ht⟩
    · exact .inl ⟨_, ht⟩
  | jmp o =>
    obtain ⟨u, pc, -, ht⟩ := execJmp_cases h
    exact .inl ⟨_, ht⟩
  | bpl off | bmi off | bvc off | bvs off | bcc off | bcs off | bne off | beq off =>
    obtain ⟨u, pc, -, ht⟩ := branchClass_cases h
    exact .inl ⟨_, ht⟩
  | ill opcode => exact .inr ⟨opcode, execIll_cases h⟩
  | pha | php | pla | plp | jsr target | rts | brk | rti =>
    cases h
    exact .inl ⟨_, rfl⟩
  | tax | tay | txa | tya | tsx | txs | inx | iny | dex | dey | clc | sec | cli | sei | clv | cld | sed | nop =>
    cases h
    exact .inl ⟨_, rfl⟩

/-- InterruptCheck after an instruction, with the entry it triggers, ends at a boundary (R103, R105). -/
theorem serviceInterrupts_ends (u : State) : ∃ w : State, u.endInstruction.serviceInterrupts = w.endInstruction := by
  rcases interruptCheck_cases u.endInstruction with ⟨w, v, hw⟩ | hw
  · exact ⟨_, by simp only [State.serviceInterrupts, hw]; rfl⟩
  · exact ⟨u, by simp [State.serviceInterrupts, hw]⟩

end Sys2Proof.Machine
end

section
/-! SUPPORT. What no cycle looks at. The interrupt requests and the FSM state are a state's control part; each row of a template
gives the same state but for it, whatever it is. So requests are sampled only at InterruptCheck (R283), and a row with more cycles
after it leaves the FSM state as it was. -/

namespace Sys2Proof.Machine

/-! ## The control part of a state -/

/-- The two interrupt requests and the FSM state: what the cycles of an instruction leave to InterruptCheck and `step_cycle`
(R104). -/
structure Control where
  irqLine : Bool
  nmiPending : Bool
  fsm : Fsm

/-- The control part of a state. -/
def State.control (s : State) : Control where
  irqLine := s.irqLine
  nmiPending := s.nmiPending
  fsm := s.fsm

/-- The state with another control part. -/
def State.withControl (c : Control) (s : State) : State :=
  { s with irqLine := c.irqLine, nmiPending := c.nmiPending, fsm := c.fsm }

@[simp] theorem withControl_latches (c : Control) (s : State) : (s.withControl c).latches = s.latches := rfl

/-- The state with other interrupt requests. -/
def State.withRequests (b n : Bool) (s : State) : State := { s with irqLine := b, nmiPending := n }

@[simp] theorem withRequests_fsm (b n : Bool) (s : State) : (s.withRequests b n).fsm = s.fsm := rfl

/-- A function on the state of a row. -/
def Cycle.map (f : State → State) : Cycle → Cycle
  | .more s => .more (f s)
  | .last s => .last (f s)
  | .noRow => .noRow

/-- A template that neither reads nor writes the control part: whatever it is, each row gives the same state but for it. -/
def IgnoresControl (f : State → Cycle) : Prop :=
  ∀ (c : Control) (s : State), f (s.withControl c) = (f s).map (State.withControl c)

/-- The operation an access class commits neither reads nor writes the control part. -/
def Access.IgnoresControl : Access → Prop
  | .read op => ∀ (c : Control) (m : Byte) (s : State), op m (s.withControl c) = (op m s).withControl c
  | .write v => ∀ (c : Control) (s : State), v (s.withControl c) = v s
  | .modify _ => True

/-! ## Templates (R144 to R163) -/

theorem kindAccess_ignoresControl {k : Kind} {acc : Access} (h : kindAccess k = some acc) : acc.IgnoresControl := by
  cases k <;> cases h
  case lda | ldx | ldy | ora | and | eor | adc | sbc | cmp | cpx | cpy | bit => exact fun _ _ _ => rfl
  case sta | stx | sty => exact fun _ _ => rfl
  all_goals trivial

theorem kindImpliedOp_withControl {k : Kind} {op : State → State} (h : kindImpliedOp k = some op) (c : Control) (s : State) :
    op (s.withControl c) = (op s).withControl c := by
  cases k <;> cases h <;> rfl

section
variable {acc : Access} (hacc : acc.IgnoresControl)
include hacc

theorem accessTail_ignoresControl (j : Nat) : IgnoresControl (accessTail acc j) := by
  intro c s
  match acc, j with
  | .read op, 0 => exact congrArg Cycle.last (hacc c (s.busValue s.latches.ea) (s.readOperand s.latches.ea))
  | .write v, 0 =>
    show Cycle.last _ = Cycle.last _
    rw [hacc c s]
    rfl
  | .modify _, 0 => rfl
  | .modify _, 1 => rfl
  | .modify _, 2 => rfl
  | .modify _, j + 3 => rfl
  | .read _, j + 1 => rfl
  | .write _, j + 1 => rfl

theorem indexedTail_ignoresControl : IgnoresControl (indexedTail acc) := by
  intro c s
  unfold indexedTail
  rw [withControl_latches]
  split
  · exact accessTail_ignoresControl hacc 0 c s
  · rfl

theorem afterDummy_ignoresControl (j : Nat) : IgnoresControl (afterDummy acc j) := by
  intro c s
  unfold afterDummy
  rw [withControl_latches]
  split
  · rfl
  · exact accessTail_ignoresControl hacc j c s

theorem cycleZp_ignoresControl : IgnoresControl (cycleZp acc) := by
  intro c s
  unfold cycleZp
  rw [withControl_latches]
  match s.latches.t with
  | 0 | 1 | 2 => rfl
  | j + 3 => exact accessTail_ignoresControl hacc j c s

theorem cycleZpi_ignoresControl (idx : Byte) : IgnoresControl (cycleZpi acc idx) := by
  intro c s
  unfold cycleZpi
  rw [withControl_latches]
  match s.latches.t with
  | 0 | 1 | 2 | 3 => rfl
  | j + 4 => exact accessTail_ignoresControl hacc j c s

theorem cycleAbs_ignoresControl : IgnoresControl (cycleAbs acc) := by
  intro c s
  unfold cycleAbs
  rw [withControl_latches]
  match s.latches.t with
  | 0 | 1 | 2 | 3 => rfl
  | j + 4 => exact accessTail_ignoresControl hacc j c s

theorem cycleAbi_ignoresControl (idx : Byte) : IgnoresControl (cycleAbi acc idx) := by
  intro c s
  unfold cycleAbi
  rw [withControl_latches]
  match s.latches.t with
  | 0 | 1 | 2 | 3 => rfl
  | 4 => exact indexedTail_ignoresControl hacc c s
  | j + 5 => exact afterDummy_ignoresControl hacc j c s

theorem cycleIzx_ignoresControl : IgnoresControl (cycleIzx acc) := by
  intro c s
  unfold cycleIzx
  rw [withControl_latches]
  match s.latches.t with
  | 0 | 1 | 2 | 3 | 4 | 5 => rfl
  | j + 6 => exact accessTail_ignoresControl hacc j c s

theorem cycleIzy_ignoresControl : IgnoresControl (cycleIzy acc) := by
  intro c s
  unfold cycleIzy
  rw [withControl_latches]
  match s.latches.t with
  | 0 | 1 | 2 | 3 | 4 => rfl
  | 5 => exact indexedTail_ignoresControl hacc c s
  | j + 6 => exact afterDummy_ignoresControl hacc j c s

theorem cycleImm_ignoresControl : IgnoresControl (cycleImm acc) := by
  intro c s
  unfold cycleImm
  rw [withControl_latches]
  match acc, s.latches.t with
  | .read op, 2 => exact congrArg Cycle.last (hacc c (s.busValue s.pc) s.fetchByte)
  | .read _, 0 | .read _, 1 | .read _, _ + 3 | .write _, _ | .modify _, _ => rfl

end

theorem cycleAcc_ignoresControl (acc : Access) : IgnoresControl (cycleAcc acc) := by
  intro c s
  unfold cycleAcc
  rw [withControl_latches]
  match acc, s.latches.t with
  | .modify op, 2 => rfl
  | .modify _, 0 | .modify _, 1 | .modify _, _ + 3 | .write _, _ | .read _, _ => rfl

/-- The template of every mode (R166). -/
theorem cycleAccess_ignoresControl {acc : Access} (hacc : acc.IgnoresControl) (m : Mode) :
    IgnoresControl (cycleAccess acc m) := by
  intro c s
  cases m with
  | imp | ind | rel => rfl
  | acc => exact cycleAcc_ignoresControl acc c s
  | imm => exact cycleImm_ignoresControl hacc c s
  | zp => exact cycleZp_ignoresControl hacc c s
  | zpx | zpy => exact cycleZpi_ignoresControl hacc _ c s
  | abs => exact cycleAbs_ignoresControl hacc c s
  | abx | aby => exact cycleAbi_ignoresControl hacc _ c s
  | izx => exact cycleIzx_ignoresControl hacc c s
  | izy => exact cycleIzy_ignoresControl hacc c s

theorem cycleImp_ignoresControl {op : State → State}
    (hop : ∀ (c : Control) (s : State), op (s.withControl c) = (op s).withControl c) : IgnoresControl (cycleImp op) := by
  intro c s
  unfold cycleImp
  rw [withControl_latches]
  split
  · exact congrArg Cycle.last (hop c s.internalCycle)
  · rfl

theorem cycleRel_ignoresControl (cond : Flags → Bool) : IgnoresControl (cycleRel cond) := by
  intro c s
  unfold cycleRel
  rw [withControl_latches, show (s.withControl c).flags = s.flags from rfl]
  split
  · split <;> rfl
  · rfl
  · rfl
  · rfl
  · rfl

theorem cycleJmpAbs_ignoresControl : IgnoresControl cycleJmpAbs := by
  intro c s
  unfold cycleJmpAbs
  rw [withControl_latches]
  split <;> rfl

theorem cycleJmpInd_ignoresControl : IgnoresControl cycleJmpInd := by
  intro c s
  unfold cycleJmpInd
  rw [withControl_latches]
  dsimp only
  split <;> rfl

theorem cycleJsr_ignoresControl : IgnoresControl cycleJsr := by
  intro c s
  unfold cycleJsr
  rw [withControl_latches]
  split <;> rfl

theorem cycleRts_ignoresControl : IgnoresControl cycleRts := by
  intro c s
  unfold cycleRts
  rw [withControl_latches]
  split <;> rfl

theorem cycleRti_ignoresControl : IgnoresControl cycleRti := by
  intro c s
  unfold cycleRti
  rw [withControl_latches]
  split <;> rfl

theorem cyclePush_ignoresControl {v : State → Byte} (hv : ∀ (c : Control) (s : State), v (s.withControl c) = v s) :
    IgnoresControl (cyclePush v) := by
  intro c s
  unfold cyclePush
  rw [withControl_latches, hv]
  split <;> rfl

theorem cyclePull_ignoresControl {op : Byte → State → State}
    (hop : ∀ (c : Control) (m : Byte) (s : State), op m (s.withControl c) = (op m s).withControl c) :
    IgnoresControl (cyclePull op) := by
  intro c s
  unfold cyclePull
  rw [withControl_latches]
  split
  · rfl
  · rfl
  · exact congrArg Cycle.last (hop c s.stackTop s.readStack)
  · rfl

theorem cycleEntry_ignoresControl (vector : Word) : IgnoresControl (cycleEntry vector) := by
  intro c s
  unfold cycleEntry
  rw [withControl_latches]
  split <;> rfl

theorem cycleBrk_ignoresControl : IgnoresControl cycleBrk := by
  intro c s
  unfold cycleBrk
  rw [withControl_latches]
  split
  · rfl
  · exact cycleEntry_ignoresControl irqVector c s

theorem cycleInt_ignoresControl : IgnoresControl cycleInt := by
  intro c s
  unfold cycleInt
  rw [withControl_latches]
  split
  · rfl
  · rfl
  · exact cycleEntry_ignoresControl s.latches.vector c s

theorem cycleReset_ignoresControl : IgnoresControl cycleReset := by
  intro c s
  unfold cycleReset
  rw [withControl_latches]
  split <;> rfl

/-- The templates of the kinds without an access class (R166). -/
theorem cycleOther_ignoresControl (k : Kind) (m : Mode) : IgnoresControl (cycleOther k m) := by
  intro c s
  unfold cycleOther
  split
  · split
    · exact cycleJmpInd_ignoresControl c s
    · exact cycleJmpAbs_ignoresControl c s
  · exact cycleJsr_ignoresControl c s
  · exact cycleRts_ignoresControl c s
  · exact cycleRti_ignoresControl c s
  · exact cycleBrk_ignoresControl c s
  · exact cyclePush_ignoresControl (fun _ _ => rfl) c s
  · exact cyclePush_ignoresControl (fun _ _ => rfl) c s
  · exact cyclePull_ignoresControl (fun _ _ _ => rfl) c s
  · exact cyclePull_ignoresControl (fun _ _ _ => rfl) c s
  · split
    · rename_i op _ hop
      exact cycleImp_ignoresControl (kindImpliedOp_withControl hop) c s
    · exact cycleRel_ignoresControl _ c s
    · rfl

/-- Every cycle of every instruction (R166). -/
theorem executeCycle_ignoresControl (k : Kind) (m : Mode) : IgnoresControl (executeCycle k m) := by
  intro c s
  unfold executeCycle
  split
  · rename_i acc hacc
    exact cycleAccess_ignoresControl (kindAccess_ignoresControl hacc) m c s
  · exact cycleOther_ignoresControl k m c s

/-- A row of a template leaves the control part as it was. -/
theorem IgnoresControl.map_control {f : State → Cycle} (hf : IgnoresControl f) (s : State) :
    f s = (f s).map (State.withControl s.control) := hf s.control s

/-- A row with more cycles after it leaves the FSM state as it was (R104). -/
theorem IgnoresControl.more_fsm {f : State → Cycle} (hf : IgnoresControl f) {s u : State} (h : f s = .more u) :
    u.fsm = s.fsm := by
  have hu := hf.map_control s
  rw [h, Cycle.map, Cycle.more.injEq] at hu
  have hfsm := congrArg State.fsm hu
  exact hfsm

/-- A row gives the same state but for the requests themselves, whatever they are (R32, R283). -/
theorem IgnoresControl.withRequests {f : State → Cycle} (hf : IgnoresControl f) (b n : Bool) (s : State) :
    f (s.withRequests b n) = (f s).map (State.withRequests b n) := by
  have hown := hf.map_control s
  have hreq : f (s.withRequests b n) = (f s).map (State.withControl ⟨b, n, s.fsm⟩) := hf ⟨b, n, s.fsm⟩ s
  rw [hreq, hown]
  cases f s <;> rfl

/-! ## Single cycles -/

/-- The outcome of a row, where what ends the last row keeps to the requests it is given (R32, R104). -/
theorem outcome_withRequests {f : State → Cycle} (hf : IgnoresControl f) {fin : State → State} {s t : State} (b n : Bool)
    (hlast : ∀ u, f s = .last u → fin (u.withRequests b n) = (fin u).withRequests b n)
    (h : (f s).outcome fin = .next t) : (f (s.withRequests b n)).outcome fin = .next (t.withRequests b n) := by
  rw [hf.withRequests]
  rcases hs : f s with u | u | _ <;> rw [hs] at h <;> cases h
  · rfl
  · exact congrArg Host.Outcome.next (hlast u hs)

theorem fetchCycle_withRequests {s t : State} (b n : Bool) (h : fetchCycle s = .next t) :
    fetchCycle (s.withRequests b n) = .next (t.withRequests b n) := by
  have hop : (s.withRequests b n).busValue (s.withRequests b n).pc = s.busValue s.pc := rfl
  unfold fetchCycle illegalOpcode at h ⊢
  rw [hop]
  dsimp only at h ⊢
  by_cases hk : (optab (s.busValue s.pc)).kind = .ill
  · rw [if_pos hk] at h ⊢
    have hcfg : (s.withRequests b n).fetchOpcode.cfg = s.fetchOpcode.cfg := rfl
    rw [hcfg]
    split at h
    · cases h
      rfl
    · cases h
  · rw [if_neg hk] at h ⊢
    cases h
    rfl

/-- After InterruptCheck at the end of an instruction the FSM is not in Execute (R104). -/
theorem endInstruction_interruptCheck_fsm (u : State) : u.endInstruction.interruptCheck.fsm ≠ .execute := by
  rcases interruptCheck_cases u.endInstruction with ⟨w, v, hw⟩ | hw <;> rw [hw] <;> exact nofun

/-- A cycle of an instruction that is not its last (R104). -/
theorem executeOutcome_withRequests {f : State → Cycle} (hf : IgnoresControl f) {s t : State} (b n : Bool)
    (h : ((f s).outcome fun u => u.endInstruction.interruptCheck) = .next t) (ht : t.fsm = .execute) :
    ((f (s.withRequests b n)).outcome fun u => u.endInstruction.interruptCheck) = .next (t.withRequests b n) := by
  refine outcome_withRequests hf b n (fun u hu => ?_) h
  rw [hu] at h
  cases h
  exact absurd ht (endInstruction_interruptCheck_fsm u)

/-- Settles O24: no template and no fetch looks at the requests, and the last row of an instruction, after which InterruptCheck
does, leaves Execute. -/
theorem requestsAreSampledOnlyAtInterruptCheck : Obligations.RequestsAreSampledOnlyAtInterruptCheck := by
  intro s t b n h hcase
  show stepCycle (s.withRequests b n) = .next (t.withRequests b n)
  unfold stepCycle at h ⊢
  rw [withRequests_fsm]
  cases hs : s.fsm <;> simp only [hs] at h ⊢
  case trapped =>
    cases h
    rfl
  case reset => exact outcome_withRequests cycleReset_ignoresControl b n (fun _ _ => rfl) h
  case interrupt => exact outcome_withRequests cycleInt_ignoresControl b n (fun _ _ => rfl) h
  case fetch => exact fetchCycle_withRequests b n h
  case execute =>
    have ht : t.fsm = .execute := hcase.resolve_left fun hne => hne hs
    exact executeOutcome_withRequests (executeCycle_ignoresControl _ _) b n h ht

end Sys2Proof.Machine
end

section
/-! SUPPORT. The invariant over a step. The platform's half is kept by `keepsPlatform_step`; for the sequencer's half a step ends at
a boundary, where the latches are free, and `brk_flag` is 0 outside Execute after every cycle (R32 to R34, R103). -/

namespace Sys2Proof.Machine

/-! ## `brk_flag` over a run of cycles -/

/-- `brk_flag` is 0 outside Execute: the part of the invariant that every single cycle keeps by itself (R32). -/
def State.BrkOnlyInExecute (s : State) : Prop := s.fsm ≠ .execute → s.brkFlag = false

theorem State.Inv.brkOnlyInExecute {s : State} (h : s.Inv) : s.BrkOnlyInExecute := by
  intro hf
  rw [h.brk, brkInFlight]
  cases hs : s.fsm with
  | execute => exact absurd hs hf
  | reset | fetch | interrupt | trapped => rfl

theorem endInstruction_brkOnlyInExecute (u : State) : u.endInstruction.BrkOnlyInExecute := fun _ => rfl

theorem interruptCheck_brkOnlyInExecute (u : State) : u.endInstruction.interruptCheck.BrkOnlyInExecute := by
  intro _
  unfold State.interruptCheck
  split
  · rfl
  · split <;> rfl

theorem cycleReset_more_brkFlag {s u : State} (h : cycleReset s = .more u) : u.brkFlag = s.brkFlag := by
  unfold cycleReset at h
  split at h <;> cases h <;> rfl

theorem cycleInt_more_brkFlag {s u : State} (h : cycleInt s = .more u) : u.brkFlag = s.brkFlag := by
  unfold cycleInt cycleEntry at h
  split at h
  · cases h; rfl
  · cases h; rfl
  · split at h <;> cases h <;> rfl

/-- The outcome of a row keeps it when the row does, or what ends the last row clears `brk_flag` (R103, R104). -/
theorem outcome_brkOnlyInExecute {c : Cycle} {fin : State → State} {t : State} (hmore : ∀ u, c = .more u → u.BrkOnlyInExecute)
    (hlast : ∀ u, (fin u).BrkOnlyInExecute) (h : c.outcome fin = .next t) : t.BrkOnlyInExecute := by
  cases c with
  | more u =>
    cases h
    exact hmore u rfl
  | last u =>
    cases h
    exact hlast u
  | noRow => cases h

theorem fetchCycle_brkOnlyInExecute {s t : State} (hs : s.brkFlag = false) (h : fetchCycle s = .next t) :
    t.BrkOnlyInExecute := by
  unfold fetchCycle illegalOpcode at h
  dsimp only at h
  split at h
  · split at h
    · cases h
      exact fun _ => hs
    · cases h
  · cases h
    exact fun hne => absurd rfl hne

theorem executeCycle_more_fsm {k : Kind} {m : Mode} {s u : State} (h : executeCycle k m s = .more u) : u.fsm = s.fsm :=
  (executeCycle_ignoresControl k m).more_fsm h

/-- Every cycle keeps it: the reset and entry sequences leave `brk_flag` at 0 until they end, and an instruction stays in Execute
until it ends (R32, R104). -/
theorem stepCycle_brkOnlyInExecute {s t : State} (hs : s.BrkOnlyInExecute) (h : stepCycle s = .next t) :
    t.BrkOnlyInExecute := by
  have hbrk : s.fsm ≠ .execute → s.brkFlag = false := hs
  unfold stepCycle at h
  cases hf : s.fsm <;> simp only [hf] at h hbrk
  case trapped =>
    cases h
    exact hs
  case reset =>
    exact outcome_brkOnlyInExecute (fun u hu _ => (cycleReset_more_brkFlag hu).trans (hbrk nofun))
      endInstruction_brkOnlyInExecute h
  case interrupt =>
    exact outcome_brkOnlyInExecute (fun u hu _ => (cycleInt_more_brkFlag hu).trans (hbrk nofun))
      endInstruction_brkOnlyInExecute h
  case fetch => exact fetchCycle_brkOnlyInExecute (hbrk nofun) h
  case execute =>
    exact outcome_brkOnlyInExecute (fun u hu hne => absurd ((executeCycle_more_fsm hu).trans hf) hne)
      interruptCheck_brkOnlyInExecute h

/-- A run of cycles that answers ends at a boundary, with `brk_flag` kept as above (R103, R105). -/
theorem runCycles_ends {fuel : Nat} {s t : State} (hs : s.BrkOnlyInExecute) (h : runCycles fuel s = .next t) :
    t.atBoundary = true ∧ t.BrkOnlyInExecute := by
  induction fuel generalizing s with
  | zero => cases h
  | succ fuel ih =>
    unfold runCycles at h
    split at h
    · rename_i u hu
      have hbrk := stepCycle_brkOnlyInExecute hs hu
      split at h
      · rename_i hb
        cases h
        exact ⟨hb, hbrk⟩
      · exact ih hbrk h
    · cases h
    · cases h

/-! ## The invariant at a boundary -/

/-- At a boundary the latches and `brk_flag` meet the invariant as soon as `brk_flag` is 0 outside Execute (R33, R34, R103). -/
theorem State.Inv.of_atBoundary {t : State} (hm : t.mem.wf = true) (hmap : mappingsWf t.mappings = true)
    (hb : t.atBoundary = true) (hbrk : t.BrkOnlyInExecute) : t.Inv := by
  have hfit : latchesFit t ∧ brkInFlight t = false ∧ t.fsm ≠ .execute := by
    unfold State.atBoundary at hb
    unfold latchesFit brkInFlight
    cases hf : t.fsm <;> simp_all
  obtain ⟨hl, hflight, hne⟩ := hfit
  exact ⟨hm, hmap, hl, (hbrk hne).trans hflight.symm⟩

/-- What a step from a fetch boundary answers is at a boundary again, `brk_flag` 0 (R103, R296). -/
theorem fetchStep_ends {i : Instr} {u t : State} (hu : u.brkFlag = false)
    (h : afterInstruction (exec i u) = .next t) : t.atBoundary = true ∧ t.BrkOnlyInExecute := by
  rcases he : exec i u with v | e | e <;> rw [he] at h <;> cases h
  rcases exec_ends he with ⟨w, rfl⟩ | ⟨opcode, rfl⟩
  · obtain ⟨x, hx⟩ := serviceInterrupts_ends w
    rw [if_neg (by simp), hx]
    exact ⟨rfl, endInstruction_brkOnlyInExecute x⟩
  · have htrap : (u.raiseIllegalOpcode opcode).fsm = .trapped := rfl
    rw [if_pos htrap]
    exact ⟨rfl, fun _ => hu⟩

theorem fetchFor_brkFlag (i : Instr) (s : State) : (s.fetchFor i).brkFlag = s.brkFlag := by
  unfold State.fetchFor
  split
  · rfl
  · rfl
  · split <;> rfl

/-- A step answers at a boundary, with `brk_flag` 0 outside Execute (R32, R103, R105). -/
theorem step_ends {s t : State} (hs : s.BrkOnlyInExecute) (h : step s = .next t) :
    t.atBoundary = true ∧ t.BrkOnlyInExecute := by
  unfold step executeInstruction at h
  cases hf : s.fsm <;> simp only [hf] at h
  case fetch =>
    have hbrk : s.brkFlag = false := hs (by rw [hf]; exact nofun)
    exact fetchStep_ends ((fetchFor_brkFlag _ s).trans hbrk) h
  case reset | execute | interrupt => exact runCycles_ends hs h
  case trapped => cases h

/-- Settles O12: a step keeps the platform and ends at a boundary, and there the latches are free. -/
theorem stepKeepsTheInvariant : Obligations.StepKeepsTheInvariant := by
  intro s t hs h
  have hkeeps := keepsPlatform_step h
  obtain ⟨hb, hbrk⟩ := step_ends hs.brkOnlyInExecute h
  exact .of_atBoundary (hkeeps.memWf hs.memWf) (hkeeps.mappings ▸ hs.mappingsDisjoint) hb hbrk

/-- Settles O13: the state at construction has an empty memory and an empty bus, and is before cycle 1 of the reset sequence. -/
theorem resetStateMeetsTheInvariant : Obligations.ResetStateMeetsTheInvariant := by
  exact ⟨.of_atBoundary rfl rfl rfl fun _ => rfl, rfl, rfl⟩

end Sys2Proof.Machine
end

section
/-! SUPPORT. The fetch of an instruction: the decoder gives an instruction of the set back from its own bytes, the fetch cycles read
those bytes in order, and from RAM or ROM they read what it holds (R25, R66, R80 to R85, R141). -/

namespace Sys2Proof

/-! ## An instruction from its own bytes -/

/-- The two tables agree on every instruction (R84, R86). -/
theorem tablesAgree (i : Instr) : Laws.TablesAgree.Statement i := by
  by_cases hk : i.kind = .ill
  · cases i <;> cases hk
    exact Laws.TablesAgree.ill _
  · have hrow := Laws.tables_agree_operand i.kind hk i.mode
    cases i
    case ill op => exact absurd rfl hk
    all_goals exact hrow

/-- Assembling an operand from its own bytes gives it back (R80, R81). -/
theorem operandOf_bytes {o : Operand} {b1 b2 : Byte} (h : o.bytes <+: [b1, b2]) : operandOf o.mode b1 b2 = o := by
  cases o with
  | acc => rfl
  | imm b | zp b | zpx b | zpy b | izx b | izy b =>
    obtain ⟨rfl, -⟩ := List.cons_prefix_cons.1 h
    rfl
  | abs w | abx w | aby w | ind w =>
    obtain ⟨rfl, h2⟩ := List.cons_prefix_cons.1 h
    obtain ⟨rfl, -⟩ := List.cons_prefix_cons.1 h2
    simp only [operandOf, Operand.mode, wordOf_bytes]

/-- Assembling an instruction of a kind and mode from its own bytes gives it back (R80, R81, R85). -/
theorem assemble_bytes {i : Instr} {op b1 b2 : Byte} (hop : i.opcode? = some op) (h : i.operandBytes <+: [b1, b2]) :
    assemble i.kind i.mode op b1 b2 = i := by
  cases i with
  | lda o | ldx o | ldy o | sta o | stx o | sty o => exact congrArg _ (operandOf_bytes h)
  | jsr w =>
    obtain ⟨rfl, h2⟩ := List.cons_prefix_cons.1 h
    obtain ⟨rfl, -⟩ := List.cons_prefix_cons.1 h2
    exact congrArg Instr.jsr (wordOf_bytes w)
  | bpl b | bmi b | bvc b | bvs b | bcc b | bcs b | bne b | beq b =>
    obtain ⟨rfl, -⟩ := List.cons_prefix_cons.1 h
    rfl
  | ill b =>
    cases hop
    rfl
  | ora o | and o | eor o | adc o | sbc o | cmp o | cpx o | cpy o | bit o => exact congrArg _ (operandOf_bytes h)
  | asl o | lsr o | rol o | ror o | inc o | dec o | jmp o => exact congrArg _ (operandOf_bytes h)
  | _ => rfl

/-- The decoder reads an instruction of the set back from its own bytes, whatever stands in bytes it does not have (R82, R85). -/
theorem decodeBytes_bytes {i : Instr} (hi : i.WellFormed) {op b1 b2 : Byte} (hop : i.opcode? = some op)
    (h : i.operandBytes <+: [b1, b2]) : decodeBytes op b1 b2 = i := by
  obtain ⟨op', hop', hk, hm⟩ := tablesAgree i hi
  obtain rfl : op' = op := Option.some.inj (hop'.symm.trans hop)
  rw [decodeBytes, hk, hm, assemble_bytes hop h]

/-- The bytes of an instruction of the set: its opcode, then its operand bytes (R80). -/
theorem encode_eq {i : Instr} (hi : i.WellFormed) : ∃ op, i.opcode? = some op ∧ encode i = op :: i.operandBytes := by
  obtain ⟨op, hop, -, -⟩ := tablesAgree i hi
  exact ⟨op, hop, by rw [encode, hop]⟩

theorem operandBytes_length_le (i : Instr) : i.operandBytes.length ≤ 2 := by
  have hoperand : ∀ o : Operand, o.bytes.length ≤ 2 := by
    intro o
    cases o <;> simp [Operand.bytes]
  cases i <;> simp [Instr.operandBytes, hoperand]

end Sys2Proof

namespace Sys2Proof.Machine

/-! ## The fetch cycles -/

/-- A bus read changes only the two logs. -/
theorem readCycle_eq (s : State) (step : Word → Byte → MicroStep) (a : Word) :
    ∃ l, s.readCycle step a =
      { s with trace := step a (s.busValue a) :: s.trace, diagnostics := l ++ s.diagnostics } := by
  obtain ⟨l, h⟩ := diagnosticsAfter_suffix s (.read a) a
  exact ⟨l, by rw [← h]; rfl⟩

/-- The second state is the first after fetch cycles: PC is `n` further on, and only the two logs have grown, the trace by `tr`. -/
def FetchedTo (s t : State) (n : Nat) (tr : List MicroStep) : Prop :=
  ∃ dg, t = { s with pc := s.pc + BitVec.ofNat 16 n, trace := tr ++ s.trace, diagnostics := dg ++ s.diagnostics }

theorem fetchedTo_fetchOpcode (s : State) : FetchedTo s s.fetchOpcode 0 [.fetchOpcode s.pc s.opcodeByte] := by
  obtain ⟨l, h⟩ := readCycle_eq s .fetchOpcode s.pc
  exact ⟨l, h.trans (by simp [State.opcodeByte])⟩

theorem FetchedTo.advancePc {s t : State} {n : Nat} {tr : List MicroStep} (h : FetchedTo s t n tr) :
    FetchedTo s t.advancePc (n + 1) tr := by
  obtain ⟨dg, rfl⟩ := h
  refine ⟨dg, ?_⟩
  rw [BitVec.ofNat_add, ← BitVec.add_assoc]
  rfl

theorem FetchedTo.readOperand {s t : State} {n : Nat} {tr : List MicroStep} (h : FetchedTo s t n tr) (a : Word) :
    FetchedTo s (t.readOperand a) n (.readOperand a (t.busValue a) :: tr) := by
  obtain ⟨dg, rfl⟩ := h
  obtain ⟨l, h⟩ := readCycle_eq _ .readOperand a
  exact ⟨l ++ dg, h.trans (by simp)⟩

theorem fetchedTo_afterOpcode (s : State) : FetchedTo s s.afterOpcode 1 [.fetchOpcode s.pc s.opcodeByte] :=
  (fetchedTo_fetchOpcode s).advancePc

theorem fetchedTo_byte1 (s : State) : FetchedTo s s.afterOpcode.fetchByte 2
    [.readOperand (s.pc + 1) s.operandByte1, .fetchOpcode s.pc s.opcodeByte] :=
  ((fetchedTo_afterOpcode s).readOperand s.afterOpcode.pc).advancePc

theorem fetchedTo_byte2 (s : State) : FetchedTo s s.afterOpcode.fetchByte.fetchByte 3
    [.readOperand (s.pc + 2) s.operandByte2, .readOperand (s.pc + 1) s.operandByte1, .fetchOpcode s.pc s.opcodeByte] := by
  have hpc : s.pc + 2 = s.afterOpcode.fetchByte.pc := (BitVec.add_assoc s.pc 1 1).symm
  rw [hpc]
  exact ((fetchedTo_byte1 s).readOperand s.afterOpcode.fetchByte.pc).advancePc

/-- An undefined byte has no operand byte, whatever the decoder was shown (R85, R296). -/
theorem mode_of_ill {i : Instr} (hi : i.kind = .ill) : i.mode = .imp := by
  cases i <;> cases hi
  rfl

/-- What the fetch reads of any other instruction, by the length of its mode (R81, R141). -/
theorem fetchFor_cases {i : Instr} (s : State) (hill : i.kind ≠ .ill) (hjsr : i.kind ≠ .jsr) :
    (i.mode.length = 1 ∧ s.fetchFor i = s.afterOpcode) ∨
    (i.mode.length = 2 ∧ s.fetchFor i = s.afterOpcode.fetchByte) ∨
    (i.mode.length = 3 ∧ s.fetchFor i = s.afterOpcode.fetchByte.fetchByte) := by
  unfold State.fetchFor
  split
  · contradiction
  · contradiction
  · cases i.mode <;> simp [Mode.length]

/-- Settles O7: the fetch cycles of each length, one after the other. -/
theorem fetchAdvancesPcPastTheInstruction : Obligations.FetchAdvancesPcPastTheInstruction := by
  intro s i _
  by_cases hill : i.kind = .ill
  · obtain ⟨dg, h⟩ := fetchedTo_fetchOpcode s
    refine ⟨_, dg, ?_, rfl⟩
    simp [State.fetchFor, hill, mode_of_ill hill, Mode.length, h]
  · by_cases hjsr : i.kind = .jsr
    · obtain ⟨dg, h⟩ := fetchedTo_byte1 s
      refine ⟨_, dg, ?_, rfl⟩
      simp [State.fetchFor, hjsr, h]
    · rcases fetchFor_cases s hill hjsr with ⟨hlen, hfetch⟩ | ⟨hlen, hfetch⟩ | ⟨hlen, hfetch⟩
      · obtain ⟨dg, h⟩ := fetchedTo_afterOpcode s
        exact ⟨_, dg, by simp [hill, hjsr, hlen, hfetch, h], rfl⟩
      · obtain ⟨dg, h⟩ := fetchedTo_byte1 s
        exact ⟨_, dg, by simp [hill, hjsr, hlen, hfetch, h], rfl⟩
      · obtain ⟨dg, h⟩ := fetchedTo_byte2 s
        exact ⟨_, dg, by simp [hill, hjsr, hlen, hfetch, h], rfl⟩

/-! ## The instruction in memory -/

/-- The bytes of an instruction as memory holds them at PC and after it are the bytes the fetch reads (R25, R53). -/
theorem fetchedBytes_of_memory {s : State} {op : Byte} {operand : List Byte} (hlen : operand.length ≤ 2)
    (h : ∀ k (hk : k < (op :: operand).length),
      memoryBacked s.mappings (s.pc + BitVec.ofNat 16 k) = true ∧
        s.mem.read (s.pc + BitVec.ofNat 16 k).toNat = (op :: operand)[k]) :
    s.opcodeByte = op ∧ operand <+: [s.operandByte1, s.operandByte2] := by
  have hbyte : ∀ (u : State) (k : Nat) (hk : k < (op :: operand).length), u.mappings = s.mappings → u.mem = s.mem →
      u.pc = s.pc + BitVec.ofNat 16 k → u.busValue u.pc = (op :: operand)[k] := by
    intro u k hk hmap hmem hpc
    obtain ⟨hbacked, hread⟩ := h k hk
    rw [hpc, busValue_backed (by rw [hmap]; exact hbacked), hmem, hread]
  have hop : s.opcodeByte = op := hbyte s 0 (Nat.succ_pos _) rfl rfl (by simp)
  have hpc1 : s.afterOpcode.pc = s.pc + BitVec.ofNat 16 1 := rfl
  have hpc2 : s.afterOpcode.fetchByte.pc = s.pc + BitVec.ofNat 16 2 := BitVec.add_assoc s.pc 1 1
  refine ⟨hop, ?_⟩
  rcases operand with _ | ⟨b1, _ | ⟨b2, _ | ⟨b3, rest⟩⟩⟩
  · exact List.nil_prefix
  · obtain rfl : s.operandByte1 = b1 := hbyte s.afterOpcode 1 (by simp) rfl rfl hpc1
    exact ⟨[s.operandByte2], rfl⟩
  · obtain rfl : s.operandByte1 = b1 := hbyte s.afterOpcode 1 (by simp) rfl rfl hpc1
    obtain rfl : s.operandByte2 = b2 := hbyte s.afterOpcode.fetchByte 2 (by simp) rfl rfl hpc2
    exact List.prefix_rfl
  · exact absurd hlen (by simp)

/-- Settles O8: the fetch reads the instruction's own bytes, and the decoder gives it back from them. -/
theorem instructionInMemoryIsTheOneThatRuns : Obligations.InstructionInMemoryIsTheOneThatRuns := by
  intro s i hf hi h
  obtain ⟨op, hop, henc⟩ := encode_eq hi
  rw [henc] at h
  obtain ⟨hopcode, hoperand⟩ := fetchedBytes_of_memory (operandBytes_length_le i) h
  have hnext : s.nextInstr = i := by
    rw [State.nextInstr, hopcode]
    exact decodeBytes_bytes hi hop hoperand
  refine ⟨hnext, ?_⟩
  simp only [step, hf, hnext]

end Sys2Proof.Machine
end

section
/-! SUPPORT. The status byte and the stack (R24, R26 to R31), and that on a stack in RAM each return pulls what its call pushed
(R242, R269, R290). -/

namespace Sys2Proof.Machine

/-! ## The status byte -/

/-- Each bit of the pushed copy of P (R26, R30). -/
theorem pPush_bits (f : Flags) (b : Bool) :
    (pPush f b).getLsbD 7 = f.n ∧ (pPush f b).getLsbD 6 = f.v ∧ (pPush f b).getLsbD 5 = true ∧
    (pPush f b).getLsbD 4 = b ∧ (pPush f b).getLsbD 3 = f.d ∧ (pPush f b).getLsbD 2 = f.i ∧
    (pPush f b).getLsbD 1 = f.z ∧ (pPush f b).getLsbD 0 = f.c := by
  obtain ⟨n, v, d, i, z, c⟩ := f
  revert n v d i z c b
  decide

/-- What was pushed is pulled back, whatever B was (R30, R31). -/
theorem pPull_pPush (f : Flags) (b : Bool) : pPull (pPush f b) = f := by
  obtain ⟨hn, hv, -, -, hd, hi, hz, hc⟩ := pPush_bits f b
  rw [pPull, hn, hv, hd, hi, hz, hc]

/-- Pushing what was pulled gives the byte back but for bits 5 and 4 (R29, R30, R31). -/
theorem pPush_pPull : ∀ (m : Byte) (b : Bool),
    pPush (pPull m) b = (m &&& 0xCF) ||| 0x20 ||| (if b then 0x10 else 0) := by decide +kernel

/-- Settles O25: bit by bit; the accessor is the pushed copy with B = 0. -/
theorem statusByte : Obligations.StatusByte := by
  refine ⟨pPush_bits, pPull_pPush, pPush_pPull, fun s => ?_⟩
  obtain ⟨-, -, h5, h4, -⟩ := pPush_bits s.flags false
  exact ⟨h5, h4, pPull_pPush s.flags false⟩

/-! ## The stack -/

/-- The stack address as a sum (R24). -/
theorem stackAddress_eq_add (sp : Byte) : stackAddress sp = 0x0100 + sp.zeroExtend 16 := by
  apply BitVec.eq_of_toNat_eq
  rw [stackAddress_toNat]
  have := sp.isLt
  simp
  omega

/-- Settles O26: the address is 0x0100 + SP, and SP moves by 1 modulo 256. -/
theorem stackStaysInPageOne : Obligations.StackStaysInPageOne := by
  intro s v
  refine ⟨stackAddress_eq_add s.sp, highByte_wordOf 0x01 s.sp, rfl, ?_, ?_, ?_⟩
  · rw [push_sp]
    bv_omega
  · rw [popSp_sp, BitVec.toNat_add]
    rfl
  · rw [← stackAddress_eq_add]
    rfl

/-! ## Returns from calls (R242, R269, R290) -/

/-- Page 1 is RAM. -/
def State.StackInRam (s : State) : Prop := ∀ sp : Byte, s.deviceAt (stackAddress sp) = some .ram

theorem State.StackInRam.of_mappings {s t : State} (h : s.StackInRam) (hm : t.mappings = s.mappings) : t.StackInRam := by
  intro sp
  rw [State.deviceAt, hm]
  exact h sp

theorem State.StackInRam.memoryBacked {s : State} (h : s.StackInRam) (sp : Byte) :
    memoryBacked s.mappings (stackAddress sp) = true := by
  have hd : lookup s.mappings (stackAddress sp) = some .ram := h sp
  rw [Machine.memoryBacked, hd]

theorem holds_ram {s t : State} {ea : Word} {v : Byte} (h : holds s t ea v) (hd : s.deviceAt ea = some .ram) :
    t.mem.read ea.toNat = v := by
  rw [h, if_pos hd]

/-- The byte a stack pointer's address holds. -/
def State.stackByte (s : State) (sp : Byte) : Byte := s.mem.read (stackAddress sp).toNat

/-- What a read of a RAM stack gives (R24, R53). -/
theorem State.StackInRam.stackTop {s : State} (h : s.StackInRam) : s.stackTop = s.stackByte s.sp :=
  busValue_backed (h.memoryBacked s.sp)

/-- A pushed byte is held at the stack address (R24, R53). -/
theorem State.StackInRam.stackByte_push {s : State} (h : s.StackInRam) (hw : s.mem.wf = true) (v : Byte) :
    (s.push v).stackByte s.sp = v := State.memAfterWrite_ram hw (h s.sp) v

/-- A push leaves every other byte of the stack (R24, R57). -/
theorem stackByte_push_other {s : State} (hw : s.mem.wf = true) (v : Byte) {sp : Byte} (hsp : sp ≠ s.sp) :
    (s.push v).stackByte sp = s.stackByte sp := State.memAfterWrite_other hw v (stackAddress_ne hsp.symm)

/-- RTI on a RAM stack pulls the three bytes it holds (R158, R269). -/
theorem rti_of_stackInRam {v : State} (h : v.StackInRam) :
    ∃ u, exec .rti v = .next u ∧
      u.registers =
        { v.registers with
          sp := v.sp + 3
          pc := wordOf (v.stackByte (v.sp + 3)) (v.stackByte (v.sp + 2))
          flags := pPull (v.stackByte (v.sp + 1)) } := by
  obtain ⟨m, lo, hi, hreg, -, -, hm, hlo, hhi⟩ := returnFromInterrupt_pulls v.internalCycle.internalCycle
  refine ⟨_, rfl, ?_⟩
  obtain rfl := hm.1 (h.memoryBacked _)
  obtain rfl := hlo.1 (h.memoryBacked _)
  obtain rfl := hhi.1 (h.memoryBacked _)
  exact hreg

/-- RTS on a RAM stack pulls the two bytes it holds and adds 1 (R157, R242). -/
theorem rts_of_stackInRam {v : State} (h : v.StackInRam) :
    ∃ u, exec .rts v = .next u ∧
      u.registers =
        { v.registers with sp := v.sp + 2, pc := wordOf (v.stackByte (v.sp + 2)) (v.stackByte (v.sp + 1)) + 1 } := by
  have hlo : v.internalCycle.internalCycle.popSp.stackTop = v.stackByte (v.sp + 1) :=
    (h.of_mappings rfl : v.internalCycle.internalCycle.popSp.StackInRam).stackTop
  have hhi : v.internalCycle.internalCycle.popSp.readStack.popSp.stackTop = v.stackByte (v.sp + 1 + 1) :=
    (h.of_mappings rfl : v.internalCycle.internalCycle.popSp.readStack.popSp.StackInRam).stackTop
  refine ⟨_, rfl, ?_⟩
  simp [State.registers, hlo, hhi, BitVec.add_assoc]

/-- PLA and PLP on a RAM stack pull the byte it holds (R160). -/
theorem pullClass_of_stackInRam {v : State} (h : v.StackInRam) (op : Byte → State → State) :
    pullClass op v =
      .next (op (v.stackByte (v.sp + 1)) v.internalCycle.internalCycle.popSp.readStack).endInstruction := by
  have htop : v.internalCycle.internalCycle.popSp.stackTop = v.stackByte (v.sp + 1) :=
    (h.of_mappings rfl : v.internalCycle.internalCycle.popSp.StackInRam).stackTop
  rw [pullClass, htop, done]

/-- RTI after BRK, SP, memory and mappings left alone in between (R290). -/
theorem rti_undoes_brk {s : State} (hw : s.mem.wf = true) (hram : s.StackInRam) :
    ∃ t, exec .brk s = .next t ∧
      ∀ v : State, v.sp = t.sp → v.mem = t.mem → v.mappings = t.mappings →
        ∃ u, exec .rti v = .next u ∧ u.registers = { v.registers with pc := s.pc + 1, sp := s.sp, flags := s.flags } := by
  have hentry :=
    takesVector_enterVector (s := s.raiseBrkFlag.internalCycle.advancePc) hw irqVector
      fun sp => ⟨vector_not_stack (by decide) sp, vector_not_stack (by decide) sp⟩
  have hexec : exec .brk s = .next (s.raiseBrkFlag.internalCycle.advancePc.enterVector irqVector).endInstruction := rfl
  have hmaps : (s.raiseBrkFlag.internalCycle.advancePc.enterVector irqVector).endInstruction.mappings = s.mappings :=
    (cycles_enterVector s.raiseBrkFlag.internalCycle.advancePc irqVector).mappings
  generalize (s.raiseBrkFlag.internalCycle.advancePc.enterVector irqVector).endInstruction = t at hentry hexec hmaps
  obtain ⟨lo, hi, hreg, -, -, -, hhigh, hlow, hstatus, -⟩ := hentry
  have htsp : t.sp = s.sp - 3 := congrArg Registers.sp hreg
  refine ⟨t, hexec, fun v hsp hmem hmap => ?_⟩
  obtain ⟨u, hu, hur⟩ := rti_of_stackInRam (hram.of_mappings (hmap.trans hmaps))
  refine ⟨u, hu, hur.trans ?_⟩
  have h1 : v.sp + 1 = s.sp - 2 := by bv_omega
  have h2 : v.sp + 2 = s.sp - 1 := by bv_omega
  have h3 : v.sp + 3 = s.sp := by bv_omega
  have hstatusByte : v.stackByte (s.sp - 2) = pPush s.flags true := by
    rw [State.stackByte, hmem]
    exact holds_ram hstatus (hram _)
  have hlowByte : v.stackByte (s.sp - 1) = lowByte (s.pc + 1) := by
    rw [State.stackByte, hmem]
    exact holds_ram hlow (hram _)
  have hhighByte : v.stackByte s.sp = highByte (s.pc + 1) := by
    rw [State.stackByte, hmem]
    exact holds_ram hhigh (hram _)
  rw [h1, h2, h3, hstatusByte, hlowByte, hhighByte, pPull_pPush, wordOf_bytes]

/-- RTS after JSR, SP, memory and mappings left alone in between (R242). -/
theorem rts_undoes_jsr {s : State} (hw : s.mem.wf = true) (hram : s.StackInRam) (target : Word) :
    ∃ t, exec (.jsr target) s = .next t ∧
      ∀ v : State, v.sp = t.sp → v.mem = t.mem → v.mappings = t.mappings →
        ∃ u, exec .rts v = .next u ∧ u.registers = { v.registers with pc := s.pc + 1, sp := s.sp } := by
  refine ⟨_, rfl, fun v hsp hmem hmap => ?_⟩
  obtain ⟨u, hu, hur⟩ := rts_of_stackInRam (hram.of_mappings (hmap.trans (cycles_jsrPush s).mappings))
  refine ⟨u, hu, hur.trans ?_⟩
  have hvsp : v.sp = s.sp - 1 - 1 := hsp
  have h1 : v.sp + 1 = s.sp - 1 := by bv_omega
  have h2 : v.sp + 2 = s.sp := by bv_omega
  have hne : s.sp ≠ s.sp - 1 := by bv_omega
  have hfirst : s.internalCycle.pushPcHigh.mem.wf = true := State.memAfterWrite_wf hw ..
  have hpushed : ∀ sp, v.stackByte sp = s.jsrPush.stackByte sp := fun sp => by rw [State.stackByte, hmem]; rfl
  have hlow : v.stackByte (s.sp - 1) = lowByte s.pc :=
    (hpushed _).trans ((hram.of_mappings rfl : s.internalCycle.pushPcHigh.StackInRam).stackByte_push hfirst _)
  have hhigh : v.stackByte s.sp = highByte s.pc :=
    (hpushed _).trans ((stackByte_push_other hfirst _ hne).trans
      ((hram.of_mappings rfl : s.internalCycle.StackInRam).stackByte_push hw _))
  rw [h1, h2, hlow, hhigh, wordOf_bytes]

/-- A pull after a push, SP, memory and mappings left alone in between (R192, R193). -/
theorem pull_undoes_push {s : State} (hw : s.mem.wf = true) (hram : s.StackInRam) (b : Byte) :
    ∃ t, pushClass b s = .next t ∧
      ∀ v : State, v.sp = t.sp → v.mem = t.mem → v.mappings = t.mappings →
        ∀ op, ∃ w : State, pullClass op v = .next (op b w).endInstruction ∧ w.sp = s.sp := by
  refine ⟨_, rfl, fun v hsp hmem hmap op => ⟨v.internalCycle.internalCycle.popSp.readStack, ?_, ?_⟩⟩
  · have hvsp : v.sp = s.sp - 1 := hsp
    have h1 : v.sp + 1 = s.sp := by bv_omega
    have hb : v.stackByte s.sp = b := by
      rw [State.stackByte, hmem]
      exact (hram.of_mappings rfl : s.internalCycle.StackInRam).stackByte_push hw b
    rw [pullClass_of_stackInRam (hram.of_mappings hmap), h1, hb]
  · have hvsp : v.sp = s.sp - 1 := hsp
    simp [hvsp]

/-- Settles O56: what each call pushes is what its return pulls. -/
theorem returnsUndoCalls : Obligations.ReturnsUndoCalls := by
  intro s v hw hram
  refine ⟨?_, fun target => ?_, ?_, ?_⟩
  · obtain ⟨t, ht, h⟩ := rti_undoes_brk hw hram
    exact ⟨t, ht, h v⟩
  · obtain ⟨t, ht, h⟩ := rts_undoes_jsr hw hram target
    exact ⟨t, ht, h v⟩
  · obtain ⟨t, ht, h⟩ := pull_undoes_push hw hram s.a
    refine ⟨t, ht, fun hsp hmem hmap => ?_⟩
    obtain ⟨w, hpull, hwsp⟩ := h v hsp hmem hmap State.loadA
    exact ⟨_, hpull, rfl, hwsp⟩
  · obtain ⟨t, ht, h⟩ := pull_undoes_push hw hram (pPush s.flags true)
    refine ⟨t, ht, fun hsp hmem hmap => ?_⟩
    obtain ⟨w, hpull, hwsp⟩ := h v hsp hmem hmap State.pullFlags
    exact ⟨_, hpull, pPull_pPush s.flags true, hwsp⟩

end Sys2Proof.Machine
end

section
/-! SUPPORT. The reset sequence as one operation (R163, R311): the seven cycles of `T_RESET` run it, and what it leaves is read
off it. -/

namespace Sys2Proof.Machine

/-- Cycles 1 to 5 of the reset sequence: no bus access, SP 3 less (R163). -/
def State.resetPrefix (s : State) : State :=
  { s.internalCycle.internalCycle.internalCycle.internalCycle.internalCycle with sp := s.sp - 3 }

theorem resetPrefix_registers (s : State) : s.resetPrefix.registers = { s.registers with sp := s.sp - 3 } := by
  simp [State.resetPrefix, State.registers]

theorem resetPrefix_trace (s : State) : s.resetPrefix.trace = List.replicate 5 .internalCycle ++ s.trace := by
  simp [State.resetPrefix, List.replicate]

theorem resetPrefix_mem (s : State) : s.resetPrefix.mem = s.mem := by
  simp [State.resetPrefix]

theorem cycles_resetPrefix (s : State) : Cycles s s.resetPrefix := by
  have five : Cycles s s.internalCycle.internalCycle.internalCycle.internalCycle.internalCycle :=
    ((((cycles_internalCycle s).trans (cycles_internalCycle _)).trans (cycles_internalCycle _)).trans
      (cycles_internalCycle _)).trans (cycles_internalCycle _)
  exact five.of_eq rfl rfl rfl rfl rfl rfl rfl

/-- The reset sequence as a whole: seven cycles, no InterruptCheck after it (R163, R311). -/
def State.resetSequence (s : State) : State :=
  (s.resetPrefix.loadVector resetVector).seiOp.endInstruction

/-- The seven cycles of `T_RESET` are the reset sequence (R163). -/
theorem runCycles_reset (n : Nat) (s : State) (hf : s.fsm = .reset) (ht : s.latches.t = 1) :
    runCycles (n + 7) s = .next s.resetSequence := by
  obtain ⟨a, x, y, sp, pc, flags, irq, nmi, brk, fsm, ⟨ir, t, lo, hi, zp, ea, unc, cross, m, taken, tl, vec⟩, maps, mem,
    diag, sig, trace, cfg⟩ := s
  subst hf
  subst ht
  rfl

/-- Loading PC from a vector (R60, R163): the two reads give what memory holds there, or `OPEN_BUS`, and nothing but PC and the
logs changes. -/
theorem loadVector_reads (s : State) (vector : Word) :
    ∃ lo hi, s.ReadsAs s.mem vector lo ∧ s.ReadsAs s.mem (vector + 1) hi ∧ Cycles s (s.loadVector vector) ∧
      (s.loadVector vector).registers = { s.registers with pc := wordOf hi lo } ∧
      (s.loadVector vector).trace = [.readOperand (vector + 1) hi, .readOperand vector lo] ++ s.trace ∧
      (s.loadVector vector).mem = s.mem :=
  ⟨s.busValue vector, (s.readOperand vector).busValue (vector + 1), readsAs_busValue s vector,
    (readsAs_busValue (s.readOperand vector) (vector + 1)).of_eq rfl rfl rfl, cycles_loadVector s vector, rfl, rfl, rfl⟩

/-- Settles O17: the step from there is the reset sequence, five internal cycles and the two vector reads. -/
theorem resetSequence : Obligations.ResetSequence := by
  intro s hf ht
  have hstep : step s = .next s.resetSequence := by
    simp only [step, executeInstruction, hf]
    exact runCycles_reset 7 s hf ht
  obtain ⟨lo, hi, hlo, hhi, hcycles, hreg, htrace, hmem⟩ := loadVector_reads s.resetPrefix resetVector
  have hpre := cycles_resetPrefix s
  have hlo := hlo.of_eq (s := s) (m := s.mem) hpre.mappings hpre.cfg (by rw [resetPrefix_mem])
  have hhi := hhi.of_eq (s := s) (m := s.mem) hpre.mappings hpre.cfg (by rw [resetPrefix_mem])
  have hall : Cycles s (s.resetPrefix.loadVector resetVector) := hpre.trans hcycles
  rw [resetPrefix_registers] at hreg
  rw [resetPrefix_trace] at htrace
  rw [resetPrefix_mem] at hmem
  rw [State.resetSequence] at hstep
  generalize s.resetPrefix.loadVector resetVector = u at *
  have hlow : resetVector = 0xFFFC := rfl
  have hhigh : resetVector + 1 = 0xFFFD := by decide
  rw [hhigh, hlow] at htrace
  rw [hlow] at hlo
  rw [hhigh] at hhi
  simp only [State.registers, Registers.mk.injEq] at hreg
  obtain ⟨ha, hx, hy, hsp, hpc, hflags⟩ := hreg
  refine ⟨lo, hi, u.seiOp.endInstruction, hstep, rfl, ?_, htrace, hlo, hhi, hmem,
    hall.mappings, hall.cfg, hall.signals, hall.irqLine, hall.nmiPending, rfl, hall.diagnostics⟩
  simp [State.registers, State.seiOp, ha, hx, hy, hsp, hpc, hflags]

end Sys2Proof.Machine
end

section
/-! SUPPORT. Which flags, registers and memory bytes an instruction can write (R21 to R27): the operations of the tables
`kindAccess` and `kindImpliedOp` first, then the access classes over them, then the whole set. -/

namespace Sys2Proof.Machine

/-! ## Flags (R27) -/

/-- From the first flags to the second an instruction of this kind writes only flags whose list in R27 names it. -/
def WritesListedFlags (k : Kind) (f g : Flags) : Prop :=
  (g.n ≠ f.n ∨ g.z ≠ f.z →
    k ∈ ([.lda, .ldx, .ldy, .tax, .tay, .txa, .tya, .tsx, .pla, .ora, .and, .eor, .adc, .sbc, .cmp, .cpx, .cpy, .bit,
      .inc, .dec, .inx, .iny, .dex, .dey, .asl, .lsr, .rol, .ror, .plp, .rti] : List Kind)) ∧
  (g.v ≠ f.v → k ∈ ([.adc, .sbc, .bit, .clv, .plp, .rti] : List Kind)) ∧
  (g.d ≠ f.d → k ∈ ([.sed, .cld, .plp, .rti] : List Kind)) ∧
  (g.i ≠ f.i → k ∈ ([.sei, .cli, .plp, .rti, .brk] : List Kind)) ∧
  (g.c ≠ f.c → k ∈ ([.adc, .sbc, .cmp, .cpx, .cpy, .asl, .lsr, .rol, .ror, .clc, .sec, .plp, .rti] : List Kind))

theorem WritesListedFlags.of_eq {k : Kind} {f g : Flags} (h : g = f) : WritesListedFlags k f g := by
  subst h
  simp [WritesListedFlags]

theorem BusOnly.flags {s t : State} (h : BusOnly s t) : t.flags = s.flags := by
  obtain ⟨tr, dg, rfl⟩ := h
  rfl

/-- The operation a read-class kind commits (R170 to R172, R201 to R209). -/
theorem readOp_flags {k : Kind} {op : Byte → State → State} (h : kindAccess k = some (.read op)) (m : Byte) (s : State) :
    WritesListedFlags k s.flags (op m s).flags := by
  cases k <;> cases h
  case lda | ldx | ldy | ora | and | eor =>
    simp [WritesListedFlags, State.loadA, State.loadX, State.loadY, State.orOp, State.andOp, State.eorOp, Flags.setNZ]
  case adc | sbc => simp [WritesListedFlags, State.adcOp, State.sbcOp, Flags.afterSum, Flags.setNZ]
  case cmp | cpx | cpy => simp [WritesListedFlags, State.cmpOp, State.cpxOp, State.cpyOp, Flags.compare]
  case bit => simp [WritesListedFlags, State.bitOp, Flags.bitTest]

/-- The flags a read-modify-write kind commits (R221 to R226). -/
theorem modifyOp_flags {k : Kind} {op : ModifyOp} (h : kindAccess k = some (.modify op)) (f : Flags) (m : Byte) :
    WritesListedFlags k f (op.flags f m) := by
  cases k <;> cases h
  case asl | lsr | rol | ror =>
    simp [WritesListedFlags, aslOp, lsrOp, rolOp, rorOp, aslFlags, lsrFlags, rolFlags, rorFlags, Flags.setNZ]
  case inc | dec => simp [WritesListedFlags, incOp, decOp, incFlags, decFlags, Flags.setNZ]

/-- The operation of an Implied two-cycle kind (R176 to R181, R227 to R230, R260 to R267). -/
theorem impliedOp_flags {k : Kind} {op : State → State} (h : kindImpliedOp k = some op) (s : State) :
    WritesListedFlags k s.flags (op s).flags := by
  cases k <;> cases h
  case tax | tay | txa | tya | tsx | inx | iny | dex | dey =>
    simp [WritesListedFlags, State.taxOp, State.tayOp, State.txaOp, State.tyaOp, State.tsxOp, State.inxOp, State.inyOp,
      State.dexOp, State.deyOp, Flags.setNZ]
  case txs | nop => exact .of_eq rfl
  case clc | sec | cli | sei | clv | cld | sed =>
    simp [WritesListedFlags, State.clcOp, State.secOp, State.cliOp, State.seiOp, State.clvOp, State.cldOp, State.sedOp]

section
variable {k : Kind} {o : Operand} {s t : State}

theorem readClass_flags {op : Byte → State → State} (hk : kindAccess k = some (.read op))
    (h : readClass k o op s = .next t) : WritesListedFlags k s.flags t.flags := by
  obtain ⟨m, u, hu, rfl⟩ := readClass_cases h
  rw [← hu.flags]
  exact readOp_flags hk m u

theorem writeClass_flags {v : Byte} (h : writeClass k o v s = .next t) : WritesListedFlags k s.flags t.flags := by
  obtain ⟨u, ea, hu, rfl⟩ := writeClass_cases h
  exact .of_eq hu.flags

theorem modifyClass_flags {op : ModifyOp} (hk : kindAccess k = some (.modify op)) (h : modifyClass k o op s = .next t) :
    WritesListedFlags k s.flags t.flags := by
  obtain ⟨-, -, rfl⟩ | ⟨r, hr, rfl⟩ := modifyClass_cases h
  · exact modifyOp_flags hk s.flags s.a
  · rw [← hr.flags]
    exact modifyOp_flags hk r.beforeWrite.flags (r.beforeWrite.busValue r.ea)

theorem impliedClass_flags {op : State → State} (hk : kindImpliedOp k = some op) (h : impliedClass op s = .next t) :
    WritesListedFlags k s.flags t.flags := by
  cases h
  exact impliedOp_flags hk s.internalCycle

end

/-- Of the flags BRK writes I alone (R268). -/
theorem enterVector_flags (s : State) (vector : Word) : (s.enterVector vector).flags = { s.flags with i := true } := rfl

/-- Settles O58: kind by kind, by its access class or its own template. -/
theorem flagsAreWrittenOnlyByTheListedInstructions : Obligations.FlagsAreWrittenOnlyByTheListedInstructions := by
  intro i s t h
  show WritesListedFlags i.kind s.flags t.flags
  cases i with
  | lda o | ldx o | ldy o | ora o | and o | eor o | adc o | sbc o | cmp o | cpx o | cpy o | bit o =>
    exact readClass_flags rfl h
  | sta o | stx o | sty o => exact writeClass_flags h
  | asl o | lsr o | rol o | ror o | inc o | dec o => exact modifyClass_flags rfl h
  | tax | tay | txa | tya | tsx | txs | inx | iny | dex | dey | clc | sec | cli | sei | clv | cld | sed | nop =>
    exact impliedClass_flags rfl h
  | jmp o =>
    obtain ⟨u, pc, hu, rfl⟩ := execJmp_cases h
    exact .of_eq hu.flags
  | bpl off | bmi off | bvc off | bvs off | bcc off | bcs off | bne off | beq off =>
    obtain ⟨u, pc, hu, rfl⟩ := branchClass_cases h
    exact .of_eq hu.flags
  | ill opcode =>
    obtain rfl := execIll_cases h
    exact .of_eq rfl
  | pha | php | jsr target | rts =>
    cases h
    exact .of_eq (by simp [State.jsrPush, State.pushPcHigh, State.pushPcLow])
  | pla =>
    cases h
    simp [WritesListedFlags, Instr.kind, Flags.setNZ]
  | plp | rti => simp [WritesListedFlags, Instr.kind]
  | brk =>
    cases h
    simp [WritesListedFlags, Instr.kind, enterVector_flags, State.raiseBrkFlag]

/-! ## Registers and memory (R21 to R25, R144) -/

/-- From the first state to the second an instruction writes only registers whose list names it, and memory only if it is a
store, a push or a read-modify-write (R21 to R25, R144). -/
def WritesListedRegisters (i : Instr) (s t : State) : Prop :=
  (t.a ≠ s.a →
    i.kind ∈ ([.lda, .txa, .tya, .pla, .ora, .and, .eor, .adc, .sbc] : List Kind) ∨
      i ∈ ([.asl .acc, .lsr .acc, .rol .acc, .ror .acc] : List Instr)) ∧
  (t.x ≠ s.x → i.kind ∈ ([.ldx, .tax, .tsx, .inx, .dex] : List Kind)) ∧
  (t.y ≠ s.y → i.kind ∈ ([.ldy, .tay, .iny, .dey] : List Kind)) ∧
  (t.sp ≠ s.sp → i.kind ∈ ([.txs, .pha, .php, .pla, .plp, .jsr, .rts, .rti, .brk] : List Kind)) ∧
  (t.pc ≠ s.pc →
    i.kind ∈ ([.jmp, .jsr, .rts, .rti, .brk, .bpl, .bmi, .bvc, .bvs, .bcc, .bcs, .bne, .beq] : List Kind)) ∧
  ((∃ x, t.mem.read x ≠ s.mem.read x) →
    i.kind ∈ ([.sta, .stx, .sty, .pha, .php, .jsr, .brk, .asl, .lsr, .rol, .ror, .inc, .dec] : List Kind))

/-- Bus reads before an operation write neither registers nor memory. -/
theorem WritesListedRegisters.after {i : Instr} {s u t : State} (hu : BusOnly s u) (h : WritesListedRegisters i u t) :
    WritesListedRegisters i s t := by
  obtain ⟨tr, dg, rfl⟩ := hu
  exact h

/-- The operation a read-class kind commits (R170 to R172, R201 to R209). -/
theorem readOp_registers {i : Instr} {op : Byte → State → State} (h : kindAccess i.kind = some (.read op)) (m : Byte)
    (s : State) : WritesListedRegisters i s (op m s) := by
  cases i <;> cases h
  case lda | ldx | ldy => simp [WritesListedRegisters, Instr.kind]
  case ora | and | eor => simp [WritesListedRegisters, Instr.kind, State.orOp, State.andOp, State.eorOp]
  case adc | sbc => simp [WritesListedRegisters, Instr.kind, State.adcOp, State.sbcOp]
  case cmp | cpx | cpy | bit =>
    simp [WritesListedRegisters, State.cmpOp, State.cpxOp, State.cpyOp, State.bitOp]

/-- The operation of an Implied two-cycle kind (R176 to R181, R227 to R230, R260 to R267). -/
theorem impliedOp_registers {i : Instr} {op : State → State} (h : kindImpliedOp i.kind = some op) (s : State) :
    WritesListedRegisters i s (op s) := by
  cases i <;> cases h
  case tax | tsx | inx | dex =>
    simp [WritesListedRegisters, Instr.kind, State.taxOp, State.tsxOp, State.inxOp, State.dexOp]
  case tay | iny | dey => simp [WritesListedRegisters, Instr.kind, State.tayOp, State.inyOp, State.deyOp]
  case txa | tya => simp [WritesListedRegisters, Instr.kind, State.txaOp, State.tyaOp]
  case txs => simp [WritesListedRegisters, Instr.kind, State.txsOp]
  case clc | sec | cli | sei | clv | cld | sed | nop =>
    simp [WritesListedRegisters, State.clcOp, State.secOp, State.cliOp, State.seiOp, State.clvOp, State.cldOp, State.sedOp,
      State.nopOp]

section
variable {i : Instr} {o : Operand} {s t : State}

theorem readClass_registers {op : Byte → State → State} (hk : kindAccess i.kind = some (.read op))
    (h : readClass i.kind o op s = .next t) : WritesListedRegisters i s t := by
  obtain ⟨m, u, hu, rfl⟩ := readClass_cases h
  exact .after hu (readOp_registers hk m u)

theorem impliedClass_registers {op : State → State} (hk : kindImpliedOp i.kind = some op) (h : impliedClass op s = .next t) :
    WritesListedRegisters i s t := by
  cases h
  exact impliedOp_registers hk s.internalCycle

end

/-- A read-modify-write on memory writes no register (R144, R220). -/
theorem onMemory_registers {i : Instr} (op : ModifyOp) (r : Resolution)
    (hi : i.kind ∈ ([.asl, .lsr, .rol, .ror, .inc, .dec] : List Kind)) :
    WritesListedRegisters i r.beforeWrite (op.onMemory r) := by
  have hmem : i.kind ∈ ([.sta, .stx, .sty, .pha, .php, .jsr, .brk, .asl, .lsr, .rol, .ror, .inc, .dec] : List Kind) :=
    List.mem_of_mem_drop (i := 7) hi
  simp only [WritesListedRegisters, hmem]
  simp [ModifyOp.onMemory]

/-- Settles O59: kind by kind, by its access class or its own template. -/
theorem registersAreWrittenOnlyByTheListedInstructions : Obligations.RegistersAreWrittenOnlyByTheListedInstructions := by
  intro i s t h
  show WritesListedRegisters i s t
  cases i with
  | lda o | ldx o | ldy o | ora o | and o | eor o | adc o | sbc o | cmp o | cpx o | cpy o | bit o =>
    exact readClass_registers rfl h
  | tax | tay | txa | tya | tsx | txs | inx | iny | dex | dey | clc | sec | cli | sei | clv | cld | sed | nop =>
    exact impliedClass_registers rfl h
  | sta o | stx o | sty o =>
    obtain ⟨u, ea, hu, rfl⟩ := writeClass_cases h
    exact .after hu (by simp [WritesListedRegisters, Instr.kind])
  | asl o | lsr o | rol o | ror o =>
    obtain ⟨rfl, -, rfl⟩ | ⟨r, hr, rfl⟩ := modifyClass_cases h
    · simp [WritesListedRegisters, ModifyOp.onAccumulator]
    · exact .after hr (onMemory_registers _ r (by simp [Instr.kind]))
  | inc o | dec o =>
    obtain ⟨-, hk, -⟩ | ⟨r, hr, rfl⟩ := modifyClass_cases h
    · exact absurd hk (by decide)
    · exact .after hr (onMemory_registers _ r (by simp [Instr.kind]))
  | jmp o =>
    obtain ⟨u, pc, hu, rfl⟩ := execJmp_cases h
    exact .after hu (by simp [WritesListedRegisters, Instr.kind])
  | bpl off | bmi off | bvc off | bvs off | bcc off | bcs off | bne off | beq off =>
    obtain ⟨u, pc, hu, rfl⟩ := branchClass_cases h
    exact .after hu (by simp [WritesListedRegisters, Instr.kind])
  | ill opcode =>
    obtain rfl := execIll_cases h
    simp [WritesListedRegisters, State.raiseIllegalOpcode]
  | pha | php =>
    cases h
    simp [WritesListedRegisters, Instr.kind]
  | pla | plp =>
    cases h
    simp [WritesListedRegisters, Instr.kind, State.pullFlags]
  | jsr target | rts =>
    cases h
    simp [WritesListedRegisters, Instr.kind, State.jsrPush, State.pushPcHigh, State.pushPcLow]
  | brk | rti =>
    cases h
    simp [WritesListedRegisters, Instr.kind, State.enterVector, State.loadVector, State.pushStatus, State.pushPcHigh,
      State.pushPcLow, State.raiseBrkFlag, State.returnFromInterrupt]

end Sys2Proof.Machine
end

section
/-! SUPPORT. Memory and the bus (20_memory.md): canonical memory contents are determined by what they read, disjoint mappings are a
bus map whatever their order, and what single accesses read, store and report. -/

namespace Sys2Proof.Machine

/-! ## Memory contents (R53) -/

/-- The first listed byte of canonical contents is one that an unlisted address does not read as. -/
theorem Memory.read_head_ne_blank {low b : Nat} {w : Byte} {rest : Memory} (h : Memory.wfFrom low ((b, w) :: rest) = true) :
    Memory.read ((b, w) :: rest) b ≠ Memory.blank := by
  obtain ⟨-, -, hw, -⟩ := (Memory.wfFrom_cons ..).1 h
  rwa [Memory.read_cons, if_pos rfl]

/-- The first address of canonical contents is the lowest that does not read as an unlisted one. -/
theorem Memory.head_le_of_read_ne_blank {low b a : Nat} {w : Byte} {rest : Memory}
    (h : Memory.wfFrom low ((b, w) :: rest) = true) (ha : Memory.read ((b, w) :: rest) a ≠ Memory.blank) : b ≤ a := by
  by_contra hab
  obtain ⟨-, hb, hw, hr⟩ := (Memory.wfFrom_cons ..).1 h
  have hfrom : Memory.wfFrom b ((b, w) :: rest) = true := (Memory.wfFrom_cons ..).2 ⟨le_refl b, hb, hw, hr⟩
  exact ha (Memory.read_below hfrom (Nat.lt_of_not_le hab))

/-- Canonical contents that read alike are equal. -/
theorem Memory.eq_of_read_eq {low low' : Nat} {m n : Memory} (hm : Memory.wfFrom low m = true)
    (hn : Memory.wfFrom low' n = true) (h : ∀ a, m.read a = n.read a) : m = n := by
  induction m generalizing low low' n with
  | nil =>
    cases n with
    | nil => rfl
    | cons d rest' => exact absurd (h d.1).symm (Memory.read_head_ne_blank hn)
  | cons c rest ih =>
    obtain ⟨b, w⟩ := c
    cases n with
    | nil => exact absurd (h b) (Memory.read_head_ne_blank hm)
    | cons d rest' =>
      obtain ⟨b', w'⟩ := d
      have hle : b' ≤ b := Memory.head_le_of_read_ne_blank hn (h b ▸ Memory.read_head_ne_blank hm)
      have hge : b ≤ b' := Memory.head_le_of_read_ne_blank hm (h b' ▸ Memory.read_head_ne_blank hn)
      obtain rfl : b = b' := Nat.le_antisymm hge hle
      obtain ⟨-, -, -, hr⟩ := (Memory.wfFrom_cons ..).1 hm
      obtain ⟨-, -, -, hr'⟩ := (Memory.wfFrom_cons ..).1 hn
      obtain rfl : w = w' := by simpa [Memory.read_cons] using h b
      have hrest : ∀ a, Memory.read rest a = Memory.read rest' a := by
        intro a
        by_cases hab : b = a
        · subst hab
          rw [Memory.read_below hr b.lt_succ_self, Memory.read_below hr' b.lt_succ_self]
        · simpa [Memory.read_cons, hab] using h a
      rw [ih hr hr' hrest]

/-- Canonical contents list nothing outside the 16-bit space (R50). -/
theorem Memory.read_outside {low : Nat} {m : Memory} (h : Memory.wfFrom low m = true) {a : Nat} (ha : 65536 ≤ a) :
    m.read a = Memory.blank := by
  induction m generalizing low with
  | nil => rfl
  | cons c rest ih =>
    obtain ⟨b, w⟩ := c
    obtain ⟨-, hb, -, hr⟩ := (Memory.wfFrom_cons ..).1 h
    rw [Memory.read_cons, if_neg (by omega)]
    exact ih hr

/-- Settles O27: the laws of `write`, and extensionality of the canonical form. -/
theorem memoryContents : Obligations.MemoryContents := by
  refine ⟨fun m a v hm => ⟨Memory.wf_write hm a v, fun x => ?_⟩, fun m n hm hn h => Memory.eq_of_read_eq hm hn fun a => ?_⟩
  · rw [Memory.read_write hm, if_congr eq_comm rfl rfl]
  · by_cases ha : a < 65536
    · have := h (BitVec.ofNat 16 a)
      rwa [BitVec.toNat_ofNat, Nat.mod_eq_of_lt ha] at this
    · rw [Memory.read_outside hm (Nat.le_of_not_lt ha), Memory.read_outside hn (Nat.le_of_not_lt ha)]

/-! ## The bus map (R54, R55) -/

theorem covers_iff (m : Mapping) (a : Word) : covers m a = true ↔ m.start ≤ a ∧ a ≤ m.stop := by
  simp [covers]

theorem rangesMeet_comm (m n : Mapping) : rangesMeet m n = rangesMeet n m := Bool.and_comm ..

/-- Two mappings that answer at one address meet (R54). -/
theorem rangesMeet_of_covers {m n : Mapping} {a : Word} (hm : covers m a = true) (hn : covers n a = true) :
    rangesMeet m n = true := by
  rw [covers_iff] at hm hn
  simp only [rangesMeet, Bool.and_eq_true, decide_eq_true_eq]
  exact ⟨BitVec.le_trans hm.1 hn.2, BitVec.le_trans hn.1 hm.2⟩

/-- Ranges that are not reversed and meet share the higher of their first addresses (R54). -/
theorem exists_covers_of_rangesMeet {m n : Mapping} (hm : m.start ≤ m.stop) (hn : n.start ≤ n.stop)
    (h : rangesMeet m n = true) : ∃ a : Word, covers m a = true ∧ covers n a = true := by
  simp only [rangesMeet, Bool.and_eq_true, decide_eq_true_eq] at h
  simp only [covers_iff]
  rcases BitVec.le_total m.start n.start with hmn | hnm
  · exact ⟨n.start, ⟨hmn, h.2⟩, BitVec.le_refl _, hn⟩
  · exact ⟨m.start, ⟨BitVec.le_refl _, hm⟩, hnm, h.1⟩

/-- The invariant of the mappings, with the disjointness as a relation between any two of them (R35, R54). -/
theorem mappingsWf_iff (maps : List Mapping) :
    mappingsWf maps = true ↔ (∀ m ∈ maps, m.start ≤ m.stop) ∧ maps.Pairwise fun m n => rangesMeet m n = false := by
  induction maps with
  | nil => simp [mappingsWf]
  | cons m rest ih =>
    simp only [mappingsWf, Bool.and_eq_true, decide_eq_true_eq, List.all_eq_true, Bool.not_eq_true', ih,
      List.forall_mem_cons, List.pairwise_cons]
    tauto

theorem mappingsWf_perm {maps maps' : List Mapping} (hp : maps.Perm maps') (h : mappingsWf maps = true) :
    mappingsWf maps' = true := by
  rw [mappingsWf_iff] at h ⊢
  obtain ⟨hstart, hdisjoint⟩ := h
  exact ⟨fun m hm => hstart m (hp.mem_iff.2 hm), hp.pairwise hdisjoint fun hmn => rangesMeet_comm _ _ ▸ hmn⟩

/-- With disjoint mappings the device of an address is that of the mapping the address is in (R55). -/
theorem lookup_of_mem {maps : List Mapping} (h : mappingsWf maps = true) {m : Mapping} (hm : m ∈ maps) {a : Word}
    (ha : covers m a = true) : lookup maps a = some m.device := by
  induction maps with
  | nil => cases hm
  | cons n rest ih =>
    obtain ⟨hstart, hdisjoint⟩ := (mappingsWf_iff _).1 h
    obtain ⟨hn, hrest⟩ := List.pairwise_cons.1 hdisjoint
    rcases List.mem_cons.1 hm with rfl | hm
    · rw [lookup, if_pos ha]
    · have hna : ¬ covers n a = true := fun hna =>
        Bool.false_ne_true ((hn m hm).symm.trans (rangesMeet_of_covers hna ha))
      rw [lookup, if_neg hna]
      exact ih ((mappingsWf_iff _).2 ⟨fun k hk => hstart k (List.mem_cons_of_mem _ hk), hrest⟩) hm

/-- An address in no range has no device (R55). -/
theorem lookup_eq_none {maps : List Mapping} {a : Word} (h : ∀ m ∈ maps, covers m a = false) : lookup maps a = none := by
  induction maps with
  | nil => rfl
  | cons m rest ih =>
    obtain ⟨hm, hrest⟩ := List.forall_mem_cons.1 h
    rw [lookup, hm]
    exact ih hrest

theorem lookup_perm {maps maps' : List Mapping} (hp : maps.Perm maps') (h : mappingsWf maps = true) (a : Word) :
    lookup maps' a = lookup maps a := by
  by_cases hc : ∃ m ∈ maps, covers m a = true
  · obtain ⟨m, hm, ha⟩ := hc
    rw [lookup_of_mem h hm ha, lookup_of_mem (mappingsWf_perm hp h) (hp.mem_iff.1 hm) ha]
  · have hnone : ∀ m ∈ maps, covers m a = false := by simpa using hc
    rw [lookup_eq_none hnone, lookup_eq_none fun m hm => hnone m (hp.mem_iff.2 hm)]

/-- Settles O28: at most one range covers an address, so neither a mapping's place nor its neighbours matter. -/
theorem lookupIsUniqueAndOrderFree : Obligations.LookupIsUniqueAndOrderFree := fun _ h =>
  ⟨fun _ hm _ ha => lookup_of_mem h hm ha, fun _ hp a => lookup_perm hp h a⟩

/-- One more range that meets none of the others keeps the mappings disjoint (R54). -/
theorem mappingsWf_append_singleton {maps : List Mapping} {m : Mapping} (h : mappingsWf maps = true) (hm : m.start ≤ m.stop)
    (hfree : ∀ n ∈ maps, rangesMeet m n = false) : mappingsWf (maps ++ [m]) = true := by
  rw [mappingsWf_iff] at h ⊢
  obtain ⟨hstart, hdisjoint⟩ := h
  constructor
  · intro n hn
    rcases List.mem_append.1 hn with hn | hn
    · exact hstart n hn
    · exact List.mem_singleton.1 hn ▸ hm
  · simpa [List.pairwise_append, hdisjoint, rangesMeet_comm _ m] using hfree

/-- Settles O29: sharing an address is what `rangesMeet` tests on ranges that are not reversed. -/
theorem registerRefusesOverlaps : Obligations.RegisterRefusesOverlaps := by
  intro maps m h
  refine ⟨fun hrev => if_pos hrev, fun hm hmeet => ?_, fun hm hapart => ?_⟩
  · obtain ⟨n, hn, a, ha, hna⟩ := hmeet
    have hany : maps.any (rangesMeet m) = true := List.any_eq_true.2 ⟨n, hn, rangesMeet_of_covers ha hna⟩
    rw [registerMapping, if_neg (BitVec.not_lt.2 hm), if_pos hany]
  · have hfree : ∀ n ∈ maps, rangesMeet m n = false := by
      intro n hn
      by_contra hmn
      obtain ⟨a, ha, hna⟩ :=
        exists_covers_of_rangesMeet hm (((mappingsWf_iff _).1 h).1 n hn) (Bool.eq_true_of_not_eq_false hmn)
      exact Bool.false_ne_true ((hapart n hn a ha).symm.trans hna)
    have hany : ¬ maps.any (rangesMeet m) = true := by simpa using hfree
    rw [registerMapping, if_neg (BitVec.not_lt.2 hm), if_neg hany]
    exact ⟨rfl, mappingsWf_append_singleton h hm hfree⟩

/-! ## Bus accesses (R53, R56 to R58) -/

/-- RAM and ROM are memory (R53). -/
theorem memoryBacked_iff (maps : List Mapping) (a : Word) :
    memoryBacked maps a = true ↔ lookup maps a = some .ram ∨ lookup maps a = some .rom := by
  unfold memoryBacked
  split <;> simp_all

/-- Settles O30: device by device. -/
theorem busAccesses : Obligations.BusAccesses := by
  intro s a v hw
  refine ⟨(readsAs_busValue s a).2, fun h => busValue_backed ((memoryBacked_iff ..).2 (.inl h)),
    fun h => busValue_backed ((memoryBacked_iff ..).2 (.inr h)), readOperand_trace s a, readOperand_mem s a,
    fun h => State.memAfterWrite_ram hw h v, memAfterWrite_of_not_ram v,
    fun x hx => State.memAfterWrite_other hw v hx.symm, writeOperand_trace s a v⟩

/-- An access to an unmapped address emits its event (R58). -/
theorem diagnosticsAfter_unmapped {s : State} {a : Word} (h : lookup s.mappings a = none) (e : BusAccess) :
    s.diagnosticsAfter e a = e :: s.diagnostics := by
  rw [State.diagnosticsAfter, State.deviceAt, h]

/-- An access that a device answers emits none (R58). -/
theorem diagnosticsAfter_mapped {s : State} {a : Word} (h : lookup s.mappings a ≠ none) (e : BusAccess) :
    s.diagnosticsAfter e a = s.diagnostics := by
  obtain ⟨d, hd⟩ := Option.ne_none_iff_exists'.1 h
  rw [State.diagnosticsAfter, State.deviceAt, hd]

/-- Settles O31: every cycle with an access appends what `diagnosticsAfter` says, an internal cycle nothing. -/
theorem oneDiagnosticPerUnmappedAccess : Obligations.OneDiagnosticPerUnmappedAccess := fun s _ _ =>
  ⟨fun h => ⟨diagnosticsAfter_unmapped h _, diagnosticsAfter_unmapped h _, diagnosticsAfter_unmapped h _⟩,
    fun h => ⟨diagnosticsAfter_mapped h _, diagnosticsAfter_mapped h _, diagnosticsAfter_mapped h _⟩,
    fun h => diagnosticsAfter_unmapped h _, fun h => diagnosticsAfter_mapped h _, internalCycle_diagnostics s⟩

end Sys2Proof.Machine
end

section
/-! SUPPORT. Operands and what their accesses show on the bus (R120 to R133, R144): the pointer reads and index additions of the
resolver as numbers, the byte an operand stands for, and the trace of each access class. -/

namespace Sys2Proof.Machine

/-! ## Address arithmetic (R124 to R131) -/

/-- A page 0 address as a number (R124). -/
theorem zeroPage_eq_ofNat (b : Byte) : zeroPage b = BitVec.ofNat 16 b.toNat := by
  apply BitVec.eq_of_toNat_eq
  have := b.isLt
  rw [zeroPage, wordOf_toNat, BitVec.toNat_ofNat, Nat.mod_eq_of_lt (by omega)]
  simp

/-- A sum in page 0 wraps there (R125, R126, R130). -/
theorem zeroPage_add (b c : Byte) : zeroPage (b + c) = BitVec.ofNat 16 ((b.toNat + c.toNat) % 256) := by
  rw [zeroPage_eq_ofNat, BitVec.toNat_add]

/-- The byte after a place in page 0 (R130, R131). -/
theorem zeroPage_add_add_one (b c : Byte) : zeroPage (b + c + 1) = BitVec.ofNat 16 ((b.toNat + c.toNat + 1) % 256) := by
  rw [zeroPage_add, BitVec.toNat_add]
  exact congrArg _ (Nat.mod_add_mod _ 256 1)

/-- The indexed address wraps in the space (R128). -/
theorem indexed_eq_ofNat (base : Word) (idx : Byte) :
    indexed base idx = BitVec.ofNat 16 ((base.toNat + idx.toNat) % 65536) := by
  apply BitVec.eq_of_toNat_eq
  have := idx.isLt
  simp [indexed]

/-- The un-carried address keeps the high byte (R128). -/
theorem uncarried_eq_ofNat (base : Word) (idx : Byte) :
    uncarried base idx = BitVec.ofNat 16 (256 * (base.toNat / 256) + (base.toNat % 256 + idx.toNat) % 256) := by
  apply BitVec.eq_of_toNat_eq
  have := base.isLt
  rw [uncarried, wordOf_toNat, highByte_toNat, BitVec.toNat_add, lowByte_toNat, BitVec.toNat_ofNat]
  omega

/-- The page-cross report is the carry out of the low byte (R128). -/
theorem indexCrosses_iff (base : Word) (idx : Byte) :
    indexCrosses (lowByte base) idx = true ↔ 255 < base.toNat % 256 + idx.toNat := by
  rw [indexCrosses, decide_eq_true_eq, lowByte_toNat]

/-! ## Reads of operands (R53, R56, R130, R131) -/

/-- Reads and internal cycles do not change what may be read. -/
theorem BusOnly.readsAs {s u : State} (h : BusOnly s u) (a : Word) : s.ReadsAs s.mem a (u.busValue a) := by
  obtain ⟨tr, dg, rfl⟩ := h
  exact (readsAs_busValue _ a).of_eq rfl rfl rfl

/-- The pointer reads: both bytes from page 0, low byte first (R60, R151, R152). -/
theorem readPointer_reads (s : State) (b : Byte) :
    ∃ lo hi, s.pagedPointer b = wordOf hi lo ∧
      (s.readPointer b).trace = [.readOperand (zeroPage (b + 1)) hi, .readOperand (zeroPage b) lo] ++ s.trace ∧
      s.ReadsAs s.mem (zeroPage b) lo ∧ s.ReadsAs s.mem (zeroPage (b + 1)) hi :=
  ⟨_, _, rfl, rfl, readsAs_busValue s _, (busOnly_readOperand s (zeroPage b)).readsAs _⟩

/-- Settles O33: the pointer reads, and the index addition on the pointer read. -/
theorem effectiveAddressesThroughPageZero : Obligations.EffectiveAddressesThroughPageZero := by
  intro s b
  constructor
  · obtain ⟨lo, hi, hptr, htrace, hlo, hhi⟩ := readPointer_reads (s.dummyRead (zeroPage b)) (b + s.x)
    rw [zeroPage_add_add_one, zeroPage_add] at htrace
    rw [zeroPage_add] at hlo
    rw [zeroPage_add_add_one] at hhi
    exact ⟨lo, hi, _, rfl, ⟨hlo.of_eq rfl rfl rfl, hhi.of_eq rfl rfl rfl⟩, htrace, hptr, rfl⟩
  · obtain ⟨lo, hi, hptr, htrace, hlo, hhi⟩ := readPointer_reads s b
    have hplace : zeroPage b = BitVec.ofNat 16 (b.toNat % 256) := by
      rw [zeroPage_eq_ofNat, Nat.mod_eq_of_lt b.isLt]
    have hnext : zeroPage (b + 1) = BitVec.ofNat 16 ((b.toNat + 1) % 256) := zeroPage_add b 1
    rw [hnext] at htrace hhi
    have hhigh : (256 * hi.toNat + lo.toNat) / 256 = hi.toNat := by have := lo.isLt; omega
    have hlow : (256 * hi.toNat + lo.toNat) % 256 = lo.toNat := by have := lo.isLt; omega
    refine ⟨lo, hi, _, rfl, ⟨hplace ▸ hlo, hhi⟩, htrace, ?_, ?_, ?_⟩
    · rw [resolveIndirectIndexed, hptr, resolveIndexed, indexed_eq_ofNat, wordOf_toNat]
    · rw [resolveIndirectIndexed, hptr, resolveIndexed, uncarried_eq_ofNat, wordOf_toNat, hhigh, hlow]
    · rw [resolveIndirectIndexed, hptr, resolveIndexed, indexCrosses_iff, wordOf_toNat, hlow]

section
variable {o : Operand} {s : State} {r : Resolution} (hr : resolve o s = some r)
include hr

theorem operandByte_of_resolve : operandByte o s = r.value := by
  cases o <;> simp_all [operandByte, resolve]

theorem oldByte_of_resolve : oldByte o s = r.beforeWrite.busValue r.ea := by
  rw [oldByte, hr]

/-- The operand byte and the old value are what may be read at the effective address (R53, R56, R144). -/
theorem operand_readsAs : s.ReadsAs s.mem r.ea (operandByte o s) ∧ s.ReadsAs s.mem r.ea (oldByte o s) := by
  rw [operandByte_of_resolve hr, oldByte_of_resolve hr]
  exact ⟨((resolve_busOnly hr).trans r.beforeRead_busOnly).readsAs r.ea,
    ((resolve_busOnly hr).trans r.beforeWrite_busOnly).readsAs r.ea⟩

end

theorem operandAddress_eq_some {o : Operand} {s : State} {ea : Word} (h : operandAddress o s = some ea) :
    ∃ r, resolve o s = some r ∧ r.ea = ea := Option.map_eq_some_iff.1 h

/-- Settles O38: an immediate byte is the operand; any other is read at the effective address, after bus reads alone. -/
theorem operandByte_holds : Obligations.OperandByte := by
  intro o s
  refine ⟨fun b => rfl, fun ea hea hb => ?_, fun ea hea hn => ?_⟩
  · obtain ⟨r, hr, rfl⟩ := operandAddress_eq_some hea
    obtain ⟨hnew, hold⟩ := operand_readsAs hr
    exact ⟨hnew.1 hb, hold.1 hb⟩
  · obtain ⟨r, hr, rfl⟩ := operandAddress_eq_some hea
    obtain ⟨hnew, hold⟩ := operand_readsAs hr
    exact ⟨hnew.2 hn, hold.2 hn⟩

/-! ## The traces of the access classes (R144, R150, R152) -/

/-- The dummy read at the un-carried address, where the mode has one (R128). -/
def Resolution.uncarriedReads (r : Resolution) : List MicroStep :=
  match r.unc with
  | some u => [.dummyRead u (r.after.busValue u)]
  | none => []

theorem Resolution.beforeWrite_trace (r : Resolution) : r.beforeWrite.trace = r.uncarriedReads ++ r.after.trace := by
  unfold Resolution.beforeWrite Resolution.uncarriedReads
  cases r.unc <;> rfl

theorem Resolution.beforeRead_trace (r : Resolution) :
    r.beforeRead.trace = (if r.cross then r.uncarriedReads else []) ++ r.after.trace := by
  unfold Resolution.beforeRead Resolution.uncarriedReads
  cases r.unc <;> cases r.cross <;> rfl

/-- The three last cycles of a read-modify-write instruction (R144). -/
theorem onMemory_trace (op : ModifyOp) (r : Resolution) :
    (op.onMemory r).trace =
      [.writeOperand r.ea (op.value r.beforeWrite.flags (r.beforeWrite.busValue r.ea)),
        .writeOperand r.ea (r.beforeWrite.busValue r.ea), .readOperand r.ea (r.beforeWrite.busValue r.ea)] ++
        r.beforeWrite.trace := rfl

/-- The operation a read-class instruction commits runs no cycle (R144). -/
theorem readOp_trace {k : Kind} {op : Byte → State → State} (h : kindAccess k = some (.read op)) (m : Byte) (s : State) :
    (op m s).trace = s.trace := by
  cases k <;> cases h <;> rfl

/-- The read class on a memory form the instruction has (R144). -/
theorem readClass_of_resolve {k : Kind} {o : Operand} {s : State} {r : Resolution} (op : Byte → State → State)
    (hk : k.modes.contains o.mode = true) (hr : resolve o s = some r) :
    readClass k o op s = .next (op r.value r.read).endInstruction := by
  unfold readClass ifFormed
  rw [if_pos hk]
  cases o <;> simp_all [resolve, done]

/-! ## Instructions with an access class (R86, R144) -/

/-- An instruction with an operand has the operand's form (R86). -/
theorem modes_of_wellFormed {i : Instr} {o : Operand} (hi : i.WellFormed) (ho : instrOperand? i = some o) :
    i.kind.modes.contains o.mode = true := by
  cases i <;> cases ho <;> exact hi

section
variable {i : Instr} {o : Operand} (ho : instrOperand? i = some o)
include ho

theorem exec_of_read {op : Byte → State → State} (hk : kindAccess i.kind = some (.read op)) (s : State) :
    exec i s = readClass i.kind o op s := by
  cases i <;> cases ho <;> cases hk <;> rfl

theorem exec_of_write {v : State → Byte} (hk : kindAccess i.kind = some (.write v)) (s : State) :
    exec i s = writeClass i.kind o (v s) s := by
  cases i <;> cases ho <;> cases hk <;> rfl

theorem exec_of_modify {op : ModifyOp} (hk : kindAccess i.kind = some (.modify op)) (s : State) :
    exec i s = modifyClass i.kind o op s := by
  cases i <;> cases ho <;> cases hk <;> rfl

end

/-- The kinds of the read class (R144). -/
theorem kindAccess_read {k : Kind}
    (h : k ∈ ([.lda, .ldx, .ldy, .ora, .and, .eor, .adc, .sbc, .cmp, .cpx, .cpy, .bit] : List Kind)) :
    ∃ op, kindAccess k = some (.read op) := by
  fin_cases h <;> exact ⟨_, rfl⟩

/-- The kinds of the write class (R144). -/
theorem kindAccess_write {k : Kind} (h : k ∈ ([.sta, .stx, .sty] : List Kind)) : ∃ v, kindAccess k = some (.write v) := by
  fin_cases h <;> exact ⟨_, rfl⟩

/-- The kinds of the read-modify-write class (R144). -/
theorem kindAccess_modify {k : Kind} (h : k ∈ ([.asl, .lsr, .rol, .ror, .inc, .dec] : List Kind)) :
    ∃ op, kindAccess k = some (.modify op) := by
  fin_cases h <;> exact ⟨_, rfl⟩

section
variable {i : Instr} {o : Operand} {s : State} {r : Resolution} (hi : i.WellFormed) (ho : instrOperand? i = some o)
  (hr : resolve o s = some r)
include hi ho hr

/-- A read makes the dummy read at the un-carried address only on a page crossing, then reads its operand (R150, R152). -/
theorem exec_read_trace {op : Byte → State → State} (hk : kindAccess i.kind = some (.read op)) :
    ∃ t v, exec i s = .next t ∧
      t.trace = [.readOperand r.ea v] ++ ((if r.cross then r.uncarriedReads else []) ++ r.after.trace) := by
  refine ⟨_, r.value, (exec_of_read ho hk s).trans (readClass_of_resolve op (modes_of_wellFormed hi ho) hr), ?_⟩
  rw [endInstruction_trace, readOp_trace hk, ← r.beforeRead_trace]
  rfl

/-- A store always makes it, then writes its operand (R150, R152). -/
theorem exec_write_trace {v : State → Byte} (hk : kindAccess i.kind = some (.write v)) :
    ∃ t w, exec i s = .next t ∧ t.trace = [.writeOperand r.ea w] ++ (r.uncarriedReads ++ r.after.trace) := by
  refine ⟨_, v s, (exec_of_write ho hk s).trans (writeClass_next (v s) (modes_of_wellFormed hi ho) hr), ?_⟩
  rw [endInstruction_trace, writeOperand_trace, r.beforeWrite_trace]
  rfl

/-- A read-modify-write always makes it, then reads its operand once and writes it twice (R144, R150). -/
theorem exec_modify_trace {op : ModifyOp} (hk : kindAccess i.kind = some (.modify op)) :
    ∃ t m v, exec i s = .next t ∧
      t.trace = [.writeOperand r.ea v, .writeOperand r.ea m, .readOperand r.ea m] ++
        (r.uncarriedReads ++ r.after.trace) := by
  refine ⟨_, r.beforeWrite.busValue r.ea, op.value r.beforeWrite.flags (r.beforeWrite.busValue r.ea),
    (exec_of_modify ho hk s).trans (modifyClass_next op (modes_of_wellFormed hi ho) hr), ?_⟩
  rw [endInstruction_trace, onMemory_trace, r.beforeWrite_trace]

end

/-- Settles O34: the resolver's own reads form by form, then the accesses class by class. -/
theorem dummyReadsOfIndexedModes : Obligations.DummyReadsOfIndexedModes := by
  intro i o s r hwf ho hr
  refine ⟨?_, fun hk => ?_, fun hk => ?_, fun hk => ?_⟩
  · cases o with
    | acc | imm _ | ind _ => cases hr
    | zp _ | abs _ | zpx _ | zpy _ =>
      cases hr
      exact ⟨rfl, rfl⟩
    | abx w =>
      cases hr
      exact ⟨rfl, indexCrosses_iff w s.x, rfl⟩
    | aby w =>
      cases hr
      exact ⟨rfl, indexCrosses_iff w s.y, rfl⟩
    | izx b =>
      cases hr
      obtain ⟨lo, hi, -, htrace, -⟩ := readPointer_reads (s.dummyRead (zeroPage b)) (b + s.x)
      exact ⟨rfl, lo, hi, htrace⟩
    | izy b =>
      cases hr
      obtain ⟨lo, hi, hptr, htrace, -⟩ := readPointer_reads s b
      refine ⟨lo, hi, ?_, ?_, htrace⟩
      · rw [resolveIndirectIndexed, hptr, resolveIndexed]
      · rw [resolveIndirectIndexed, hptr, resolveIndexed, lowByte_wordOf, indexCrosses, decide_eq_true_eq]
  · obtain ⟨op, hop⟩ := kindAccess_read hk
    exact exec_read_trace hwf ho hr hop
  · obtain ⟨v, hv⟩ := kindAccess_write hk
    exact exec_write_trace hwf ho hr hv
  · obtain ⟨op, hop⟩ := kindAccess_modify hk
    exact exec_modify_trace hwf ho hr hop

/-- The bus accesses a read-modify-write instruction ends in (R144, R220). -/
theorem modifyClass_writesTwice {k : Kind} {o : Operand} {s : State} {ea : Word} (op : ModifyOp)
    (hk : k.modes.contains o.mode = true) (hea : operandAddress o s = some ea) :
    ∃ t m rest, modifyClass k o op s = .next t ∧
      t.trace = [.writeOperand ea (op.value s.flags m), .writeOperand ea m, .readOperand ea m] ++ rest ∧
      s.trace <:+ rest ∧ m = oldByte o s := by
  obtain ⟨r, hr, rfl⟩ := operandAddress_eq_some hea
  have hbus : BusOnly s r.beforeWrite := (resolve_busOnly hr).trans r.beforeWrite_busOnly
  refine ⟨_, oldByte o s, r.beforeWrite.trace, modifyClass_next op hk hr, ?_, hbus.cycles.trace, rfl⟩
  rw [endInstruction_trace, onMemory_trace, oldByte_of_resolve hr, hbus.flags]

/-- Settles O46: the six instructions are the read-modify-write class on their operations. -/
theorem modifyWritesTwice : Obligations.ModifyWritesTwice := fun _ _ _ hea =>
  ⟨fun hk => modifyClass_writesTwice aslOp hk hea, fun hk => modifyClass_writesTwice lsrOp hk hea,
    fun hk => modifyClass_writesTwice rolOp hk hea, fun hk => modifyClass_writesTwice rorOp hk hea,
    fun hk => modifyClass_writesTwice incOp hk hea, fun hk => modifyClass_writesTwice decOp hk hea⟩

end Sys2Proof.Machine
end

section
/-! SUPPORT. The decoder and the encoder are inverse to each other (R80 to R89): what the decoder reads, said once as an opcode byte
with as many operand bytes as its entry's mode has; both directions and totality follow from it. -/

namespace Sys2Proof

/-! ## Lengths (R80, R81) -/

theorem Mode.length_pos (m : Mode) : 1 ≤ m.length := by cases m <;> decide

theorem Mode.length_le (m : Mode) : m.length ≤ 3 := by cases m <;> decide

theorem Operand.bytes_length (o : Operand) : o.bytes.length + 1 = o.mode.length := by cases o <;> rfl

/-- The opcode byte and the operand bytes are as many as the mode has (R80, R81). -/
theorem operandBytes_length (i : Instr) : i.operandBytes.length + 1 = i.mode.length := by
  cases i with
  | lda o | ldx o | ldy o | sta o | stx o | sty o => exact o.bytes_length
  | ora o | and o | eor o | adc o | sbc o | cmp o | cpx o | cpy o | bit o => exact o.bytes_length
  | asl o | lsr o | rol o | ror o | inc o | dec o | jmp o => exact o.bytes_length
  | _ => rfl

/-! ## The decoder -/

/-- What the decoder reads: an opcode byte, then as many operand bytes as the mode of its entry has (R80, R82, R85). -/
theorem decode_eq_ok_iff {bytes rest : List Byte} {i : Instr} :
    decode bytes = .ok (i, rest) ↔
      ∃ op operand, bytes = op :: (operand ++ rest) ∧ operand.length + 1 = (optab op).mode.length ∧
        i = decodeBytes op (operand.getD 0 0) (operand.getD 1 0) := by
  constructor
  · intro h
    unfold decode at h
    split at h
    · cases h
    · rename_i op tail
      split at h
      · rename_i hlen
        cases h
        exact ⟨op, [], rfl, hlen.symm, rfl⟩
      · rename_i b1 tail hlen
        cases h
        exact ⟨op, [b1], rfl, hlen.symm, rfl⟩
      · rename_i b1 b2 tail hlen
        cases h
        exact ⟨op, [b1, b2], rfl, hlen.symm, rfl⟩
      · cases h
  · rintro ⟨op, operand, rfl, hlen, rfl⟩
    have hmax := (optab op).mode.length_le
    rcases operand with _ | ⟨b1, _ | ⟨b2, _ | ⟨b3, more⟩⟩⟩
    · simp [decode, ← hlen]
    · simp [decode, ← hlen]
    · simp [decode, ← hlen]
    · exact absurd (hlen.trans_le hmax) (by simp)

theorem decodeBytes_kind (b0 b1 b2 : Byte) : (decodeBytes b0 b1 b2).kind = (optab b0).kind := assemble_kind ..

theorem decodeBytes_mode (b0 b1 b2 : Byte) : (decodeBytes b0 b1 b2).mode = (optab b0).mode :=
  assemble_mode (optab_mode_mem b0) ..

/-- An undefined byte decodes to the instruction that stands for it (R85, R88). -/
theorem decodeBytes_undefined {b0 : Byte} (h : undefinedOpcodes.contains b0 = true) (b1 b2 : Byte) :
    decodeBytes b0 b1 b2 = .ill b0 := by
  rw [decodeBytes, (optab_ill_iff b0).2 h]
  rfl

/-! ## What the decoder gives is of the set, and its bytes are its encoding -/

/-- Away from the undefined bytes an instruction of the set is a filled cell of the table (R86). -/
theorem wellFormed_of_kind_ne_ill {i : Instr} (h : i.kind ≠ .ill) : i.wellFormed = i.kind.modes.contains i.mode := by
  cases i with
  | ill op => exact absurd rfl h
  | _ => rfl

/-- Away from the undefined bytes the opcode is looked up in the table by mnemonic (R86). -/
theorem opcode?_of_kind_ne_ill {i : Instr} (h : i.kind ≠ .ill) :
    i.opcode? = (i.kind.opcodes.find? fun e => e.1 == i.mode).map Prod.snd := by
  cases i with
  | ill op => exact absurd rfl h
  | _ => rfl

/-- Every opcode byte begins an instruction of the set, whatever follows it (R85, R89). -/
theorem decodeBytes_wellFormed (b0 b1 b2 : Byte) : (decodeBytes b0 b1 b2).WellFormed := by
  by_cases hill : (optab b0).kind = .ill
  · have hb0 := (optab_ill_iff b0).1 hill
    rw [decodeBytes_undefined hb0]
    exact hb0
  · rw [Instr.WellFormed, wellFormed_of_kind_ne_ill (by rwa [decodeBytes_kind]), decodeBytes_kind, decodeBytes_mode]
    exact optab_mode_mem b0

/-- The two tables give an instruction the byte it was read from (R84, R86). -/
theorem decodeBytes_opcode? (b0 b1 b2 : Byte) : (decodeBytes b0 b1 b2).opcode? = some b0 := by
  by_cases hill : (optab b0).kind = .ill
  · rw [decodeBytes_undefined ((optab_ill_iff b0).1 hill)]
    rfl
  · rw [opcode?_of_kind_ne_ill (by rwa [decodeBytes_kind]), decodeBytes_kind, decodeBytes_mode, opcodes_find b0 hill]
    rfl

/-- An operand is stored as the bytes it was assembled from (R80, R81). -/
theorem operandOf_bytes_eq_take {m : Mode} (hm : m ≠ .rel) (b1 b2 : Byte) :
    (operandOf m b1 b2).bytes = [b1, b2].take (m.length - 1) := by
  cases m with
  | rel => exact absurd rfl hm
  | abs | abx | aby | ind => simp [operandOf, Operand.bytes, Mode.length, lowByte_wordOf, highByte_wordOf]
  | _ => rfl

/-- An instruction is stored with the operand bytes it was assembled from, as many as its mode has (R80, R81). -/
theorem assemble_operandBytes {k : Kind} {m : Mode} (h : k.modes.contains m = true) (b0 b1 b2 : Byte) :
    (assemble k m b0 b1 b2).operandBytes = [b1, b2].take (m.length - 1) := by
  cases k with
  | lda | ldx | ldy | sta | stx | sty | ora | and | eor | adc | sbc | cmp | cpx | cpy | bit
  | asl | lsr | rol | ror | inc | dec | jmp =>
    exact operandOf_bytes_eq_take (by rintro rfl; exact absurd h (by decide)) b1 b2
  | jsr =>
    obtain rfl : m = .abs := by simpa [Kind.modes] using h
    simp [assemble, Instr.operandBytes, Mode.length, lowByte_wordOf, highByte_wordOf]
  | bpl | bmi | bvc | bvs | bcc | bcs | bne | beq =>
    obtain rfl : m = .rel := by simpa [Kind.modes] using h
    rfl
  | _ =>
    obtain rfl : m = .imp := by simpa [Kind.modes] using h
    rfl

/-- The encoding of what the decoder gives is the bytes it looked at (R80, R85, R86). -/
theorem encode_decodeBytes (b0 b1 b2 : Byte) :
    encode (decodeBytes b0 b1 b2) = b0 :: [b1, b2].take ((optab b0).mode.length - 1) := by
  rw [encode, decodeBytes_opcode?]
  exact congrArg (b0 :: ·) (assemble_operandBytes (optab_mode_mem b0) b0 b1 b2)

/-- At most two operand bytes are the front of the two that `decodeBytes` is shown. -/
theorem isPrefix_getD {operand : List Byte} (h : operand.length ≤ 2) :
    operand <+: [operand.getD 0 0, operand.getD 1 0] := by
  rcases operand with _ | ⟨b1, _ | ⟨b2, _ | ⟨b3, more⟩⟩⟩
  · exact List.nil_prefix
  · exact ⟨[0], rfl⟩
  · exact List.prefix_rfl
  · exact absurd h (by simp)

/-! ## The statements -/

/-- Settles O1: the decoder reads the opcode and the operand bytes off the front, and gives the instruction back from them. -/
theorem decodeOfEncodeIsTheInstruction : Obligations.DecodeOfEncodeIsTheInstruction := by
  intro i rest hi
  obtain ⟨op, hop, hk, hm⟩ := tablesAgree i hi
  have henc : encode i = op :: i.operandBytes := by rw [encode, hop]
  have hlen := operandBytes_length i
  constructor
  · refine decode_eq_ok_iff.2 ⟨op, i.operandBytes, by rw [henc, List.cons_append], by rw [hlen, hm], ?_⟩
    exact (decodeBytes_bytes hi hop (isPrefix_getD (operandBytes_length_le i))).symm
  · rw [henc, List.length_cons, hlen]

/-- Settles O2: what the decoder reads is the encoding of what it gives. -/
theorem decodedInstructionIsInTheSet : Obligations.DecodedInstructionIsInTheSet := by
  intro bytes i rest h
  obtain ⟨op, operand, rfl, hlen, rfl⟩ := decode_eq_ok_iff.1 h
  have hmax := (optab op).mode.length_le
  have hoperand := List.prefix_iff_eq_take.1 (isPrefix_getD (operand := operand) (by omega))
  refine ⟨decodeBytes_wellFormed .., ?_⟩
  rw [encode_decodeBytes, ← hlen, Nat.add_sub_cancel, ← hoperand]
  rfl

/-- Settles O3: two bytes after the opcode are enough for every mode. -/
theorem everyByteDecodes : Obligations.EveryByteDecodes := by
  intro b0 b1 b2 rest
  have hmin := (optab b0).mode.length_pos
  have hmax := (optab b0).mode.length_le
  refine ⟨_, decode_eq_ok_iff.2 ⟨b0, (b1 :: b2 :: rest).take ((optab b0).mode.length - 1), ?_, ?_, rfl⟩,
    decodeBytes_kind .., decodeBytes_mode ..⟩
  · rw [List.take_append_drop]
  · rw [List.length_take, List.length_cons, List.length_cons]
    omega

/-- The 105 undefined bytes have the entry of R85. -/
theorem optab_of_undefined : ∀ op : Byte, undefinedOpcodes.contains op = true → optab op = Entry.undefined := by
  decide +kernel

/-- A defined byte stands in the table by mnemonic at its kind and mode (R86). -/
theorem mem_opcodes_of_defined {op : Byte} (h : undefinedOpcodes.contains op = false) :
    ((optab op).mode, op) ∈ (optab op).kind.opcodes := by
  refine List.mem_of_find?_eq_some (opcodes_find op fun hill => ?_)
  rw [(optab_ill_iff op).1 hill] at h
  exact absurd h (by decide)

/-- Settles O4: the two tables byte by byte; that a defined byte is its own opcode is what `opcodes_find` says. -/
theorem opcodeTableIsTotal : Obligations.OpcodeTableIsTotal :=
  ⟨rfl, optab_of_undefined, fun _ => mem_opcodes_of_defined, by decide +kernel⟩

/-- Settles O5: the decoder run on each of the words. -/
theorem wordsOfTheSpecDecode : Obligations.WordsOfTheSpecDecode := by
  unfold Obligations.WordsOfTheSpecDecode
  decide

end Sys2Proof
end

section
/-! SUPPORT. Terms and bytes with no documented instruction: a form outside the table is refused (R86, R89), and an undefined byte
does what the policy says (R88, R296). -/

namespace Sys2Proof.Machine

/-! ## Forms outside the table -/

/-- JMP has two forms (R86, R240). -/
theorem execJmp_refused {o : Operand} (s : State) (h : Kind.jmp.modes.contains o.mode = false) :
    execJmp o s = .refused .noSuchForm := by
  cases o with
  | abs w | ind w => cases h
  | _ => rfl

/-- Settles O57: the access classes, JMP and `ill` test the form; no other instruction has an operand form to get wrong. -/
theorem formsOutsideTheTableAreRefused : Obligations.FormsOutsideTheTableAreRefused := by
  intro i s hi
  have hform : i.wellFormed = false := Bool.eq_false_iff.2 hi
  cases i with
  | lda o | ldx o | ldy o | ora o | and o | eor o | adc o | sbc o | cmp o | cpx o | cpy o | bit o =>
    exact ifFormed_refused _ hform
  | sta o | stx o | sty o => exact ifFormed_refused _ hform
  | asl o | lsr o | rol o | ror o | inc o | dec o => exact ifFormed_refused _ hform
  | jmp o => exact execJmp_refused s hform
  | ill opcode => exact if_neg hi
  | _ => exact absurd rfl hi

/-! ## Undefined bytes -/

theorem exec_ill {opcode : Byte} (h : undefinedOpcodes.contains opcode = true) (s : State) :
    exec (.ill opcode) s = illegalOpcode opcode s := if_pos h

theorem illegalOpcode_trap (opcode : Byte) {s : State} (h : s.cfg.illegalPolicy = .trap) :
    illegalOpcode opcode s = .next (s.raiseIllegalOpcode opcode) := by
  rw [illegalOpcode, h]

theorem illegalOpcode_emulate (opcode : Byte) {s : State} (h : s.cfg.illegalPolicy = .emulate) :
    illegalOpcode opcode s = .refused (.emulatePolicy opcode) := by
  rw [illegalOpcode, h]

/-- A step at an undefined byte is its fetch cycle, then what the policy says (R88, R296). -/
theorem step_undefined {s : State} (hf : s.fsm = .fetch) (h : undefinedOpcodes.contains s.opcodeByte = true) :
    step s = afterInstruction (illegalOpcode s.opcodeByte s.fetchOpcode) := by
  have hnext : s.nextInstr = .ill s.opcodeByte := decodeBytes_undefined h ..
  have hstep : step s = afterInstruction (exec s.nextInstr (s.fetchFor s.nextInstr)) := by rw [step, hf]
  rw [hstep, hnext, exec_ill h]
  rfl

/-- No InterruptCheck follows the trap (R283, R296). -/
theorem afterInstruction_raiseIllegalOpcode (opcode : Byte) (s : State) :
    afterInstruction (.next (s.raiseIllegalOpcode opcode)) = .next (s.raiseIllegalOpcode opcode) := rfl

/-- An access is reported exactly when no device answers (R58). -/
theorem diagnosticsAfter_eq_ite (s : State) (e : BusAccess) (a : Word) :
    s.diagnosticsAfter e a = if s.deviceAt a = none then e :: s.diagnostics else s.diagnostics := by
  split
  · exact diagnosticsAfter_unmapped ‹_› e
  · exact diagnosticsAfter_mapped ‹_› e

/-- Settles O19: the step is the fetch cycle and the trap, and `ill` is the trap. -/
theorem undefinedByteTraps : Obligations.UndefinedByteTraps := by
  constructor
  · intro s hf h hpolicy
    rw [step_undefined hf h, illegalOpcode_trap s.opcodeByte (s := s.fetchOpcode) hpolicy,
      afterInstruction_raiseIllegalOpcode, ← diagnosticsAfter_eq_ite]
    rfl
  · intro op s h hpolicy
    rw [exec_ill h, illegalOpcode_trap op hpolicy]
    rfl

/-- Settles O20: the step is the fetch cycle and the refusal, and construction looks at the policy first. -/
theorem emulateIsRefused : Obligations.EmulateIsRefused := by
  constructor
  · intro s hf h hpolicy
    rw [step_undefined hf h, illegalOpcode_emulate s.opcodeByte (s := s.fetchOpcode) hpolicy]
    rfl
  · intro cfg p maps m hpolicy
    rw [construct, hpolicy]

end Sys2Proof.Machine
end

section
/-! SUPPORT. The small statements about `step_cycle`, `reset()` and Trapped (R103 to R105, R112 to R114): a step runs what the decoder
reads at PC, and a jump to itself in memory leaves the machine where it was. -/

namespace Sys2Proof.Machine

/-! ## What a step runs -/

/-- What the decoder reads off the bytes at PC is the instruction there; bytes it does not look at do not matter (R82, R85). -/
theorem nextInstr_of_decode {s : State} {i : Instr} {rest : List Byte}
    (h : decode [s.opcodeByte, s.operandByte1, s.operandByte2] = .ok (i, rest)) : i.WellFormed ∧ s.nextInstr = i := by
  obtain ⟨hi, hbytes⟩ := decodedInstructionIsInTheSet _ _ _ h
  obtain ⟨op, hop, henc⟩ := encode_eq hi
  rw [henc, List.cons_append, List.cons.injEq] at hbytes
  obtain ⟨hopcode, hoperand⟩ := hbytes
  refine ⟨hi, ?_⟩
  rw [State.nextInstr, hopcode]
  exact decodeBytes_bytes hi hop ⟨rest, hoperand.symm⟩

theorem step_fetch {s : State} (hf : s.fsm = .fetch) :
    step s = afterInstruction (exec s.nextInstr (s.fetchFor s.nextInstr)) := by
  rw [step, hf]

/-- Settles O6: the instruction the decoder reads is the one at PC, and `afterInstruction` is what the statement writes out. -/
theorem stepRunsTheDecodedInstruction : Obligations.StepRunsTheDecodedInstruction := by
  intro s i rest hf h
  obtain ⟨hi, hnext⟩ := nextInstr_of_decode h
  refine ⟨hi, ?_⟩
  rw [step_fetch hf, hnext]
  rfl

/-! ## reset() and Trapped -/

/-- Settles O18: `reset()` writes the FSM, the latches, the pending NMI and `brk_flag`, and no other field. -/
theorem hostResetEntersTheResetState : Obligations.HostResetEntersTheResetState :=
  fun _ => ⟨rfl, rfl, rfl, rfl, rfl, rfl, rfl, rfl, rfl, rfl, rfl, rfl⟩

section
variable {s : State} (hs : s.fsm = .trapped)
include hs

theorem stepCycle_trapped : stepCycle s = .next s := by rw [stepCycle, hs]

theorem executeInstruction_trapped : executeInstruction s = .next s := by rw [executeInstruction, hs]

/-- Every host operation but `reset()` stays in Trapped (R113). -/
theorem hostOp_trapped {op : HostOp} {t : State} (hop : op ≠ .reset) (h : op.run s = .next t) : t.fsm = .trapped := by
  cases op with
  | reset => exact absurd rfl hop
  | setIrq b | triggerNmi =>
    cases h
    exact hs
  | stepCycle =>
    cases (stepCycle_trapped hs).symm.trans h
    exact hs
  | executeInstruction =>
    cases (executeInstruction_trapped hs).symm.trans h
    exact hs

end

/-- Settles O21: both calls answer the state they were given, and the other operations write no FSM state. -/
theorem trappedIsLeftOnlyByReset : Obligations.TrappedIsLeftOnlyByReset := by
  intro s hs
  refine ⟨stepCycle_trapped hs, executeInstruction_trapped hs, ?_, ?_, fun _ => rfl, rfl, fun _ _ => hostOp_trapped hs⟩
  · rw [stepDescriptor, hs]
  · rw [step, hs]

/-! ## A jump to itself (R114) -/

/-- The same bytes are fetched from RAM or ROM as long as PC, mappings and memory stay (R53). -/
theorem nextInstr_of_memory {s t : State} (h : s.fetchesFromMemory = true) (hpc : t.pc = s.pc)
    (hmap : t.mappings = s.mappings) (hmem : t.mem = s.mem) : t.nextInstr = s.nextInstr := by
  simp only [State.fetchesFromMemory, Bool.and_eq_true] at h
  obtain ⟨⟨h0, h1⟩, h2⟩ := h
  have hbyte : ∀ u v : State, memoryBacked s.mappings v.pc = true → v.mappings = s.mappings → v.mem = s.mem →
      u.pc = v.pc → u.mappings = s.mappings → u.mem = s.mem → u.busValue u.pc = v.busValue v.pc := by
    intro u v hv hvmap hvmem hupc humap humem
    rw [busValue_backed (s := u) (by rw [humap, hupc]; exact hv), busValue_backed (s := v) (by rw [hvmap]; exact hv),
      humem, hvmem, hupc]
  have hpc2 : s.afterOpcode.fetchByte.pc = s.pc + 2 := BitVec.add_assoc s.pc 1 1
  have hop : t.opcodeByte = s.opcodeByte := hbyte t s h0 rfl rfl hpc hmap hmem
  have hop1 : t.operandByte1 = s.operandByte1 :=
    hbyte t.afterOpcode s.afterOpcode h1 rfl rfl (congrArg (· + 1) hpc) hmap hmem
  have hop2 : t.operandByte2 = s.operandByte2 :=
    hbyte t.afterOpcode.fetchByte s.afterOpcode.fetchByte (hpc2 ▸ h2) rfl rfl (congrArg (· + 1 + 1) hpc) hmap hmem
  rw [State.nextInstr, hop, hop1, hop2, State.nextInstr]

/-- InterruptCheck does nothing when no request is to be taken (R284, R285). -/
theorem interruptCheck_of_quiet {s : State} (h : s.quiet) : s.interruptCheck = s := by
  obtain ⟨hnmi, hirq⟩ := h
  have hline : (s.irqLine && !s.flags.i) = false := by
    rcases hirq with hirq | hirq <;> simp [hirq]
  rw [State.interruptCheck, hnmi, hline]
  rfl

theorem serviceInterrupts_of_quiet {s : State} (h : s.quiet) (hf : s.fsm = .fetch) : s.serviceInterrupts = s := by
  rw [State.serviceInterrupts, interruptCheck_of_quiet h]
  exact if_neg (by rw [hf]; decide)

/-- A step that jumps: three bytes are read, PC is loaded, and nothing else but the logs and the sequencer changes (R154, R240). -/
theorem step_jmp_abs {s : State} {w : Word} (hf : s.fsm = .fetch) (h : s.nextInstr = .jmp (.abs w)) :
    ∃ tr dg, step s = .next
      { s with pc := w, trace := tr, diagnostics := dg : State }.endInstruction.serviceInterrupts := by
  obtain ⟨dg, hfetch⟩ := fetchedTo_byte2 s
  have hfor : s.fetchFor (.jmp (.abs w)) = s.afterOpcode.fetchByte.fetchByte := rfl
  rw [step_fetch hf, h, hfor, hfetch]
  exact ⟨_, _, rfl⟩

/-- Settles O16: the step reads three bytes and loads PC with its own value, so the next step fetches the same jump. -/
theorem jumpToItselfEndsTheRun : Obligations.JumpToItselfEndsTheRun := by
  intro s hover hback hquiet
  obtain ⟨hf, hnext⟩ := hover
  obtain ⟨tr, dg, hstep⟩ := step_jmp_abs hf hnext
  rw [serviceInterrupts_of_quiet] at hstep
  · refine ⟨_, hstep, ⟨rfl, ?_⟩, hback, hquiet, rfl, fun _ => rfl⟩
    exact Eq.trans (nextInstr_of_memory hback rfl rfl rfl) hnext
  · exact hquiet
  · rfl

end Sys2Proof.Machine
end

section
/-! SUPPORT. How many cycles each template has (R142, R145 to R163), and that a template has a row for each of them: the rows that
`hasRow` allows are there, and a row with more after it is followed by another one. -/

namespace Sys2Proof.Machine

/-! ## How many cycles a template has (R142) -/

/-- The operand cycles of an access class (R144). -/
def Access.operandCycles : Access → Nat
  | .read _ => 1
  | .write _ => 1
  | .modify _ => 3

/-- The cycle of the dummy read at the un-carried address: a read makes it only on a page crossing (R150, R152). -/
def Access.dummyCycles : Access → Bool → Nat
  | .read _, false => 0
  | .read _, true => 1
  | .write _, _ => 1
  | .modify _, _ => 1

/-- The cycles of the template of a mode for the kinds with an access class (R145 to R152); 0 where there is no template. -/
def accessCycles (acc : Access) (m : Mode) (cross : Bool) : Nat :=
  match m, acc with
  | .imp, _ | .ind, _ | .rel, _ => 0
  | .acc, .modify _ => 2
  | .acc, _ => 0
  | .imm, .read _ => 2
  | .imm, _ => 0
  | .zp, _ => 2 + acc.operandCycles
  | .zpx, _ | .zpy, _ | .abs, _ => 3 + acc.operandCycles
  | .abx, _ | .aby, _ => 3 + acc.dummyCycles cross + acc.operandCycles
  | .izx, _ => 5 + acc.operandCycles
  | .izy, _ => 4 + acc.dummyCycles cross + acc.operandCycles

/-- The cycles of the templates of the other kinds (R145, R153 to R161); 0 where there is no template. -/
def otherCycles (k : Kind) (m : Mode) (cross taken : Bool) : Nat :=
  match k with
  | .jmp => if m = .ind then 5 else 3
  | .jsr | .rts | .rti => 6
  | .brk => 7
  | .pha | .php => 3
  | .pla | .plp => 4
  | k =>
    match kindImpliedOp k, kindCondition k with
    | some _, _ => 2
    | none, some _ => 2 + bit01 taken + bit01 (taken && cross)
    | none, none => 0

/-- The cycles of the template of (kind, mode) (R166). -/
def templateCycles (k : Kind) (m : Mode) (cross taken : Bool) : Nat :=
  match kindAccess k with
  | some acc => accessCycles acc m cross
  | none => otherCycles k m cross taken

theorem templateCycles_access {k : Kind} {acc : Access} (h : kindAccess k = some acc) (m : Mode) :
    templateCycles k m = fun cross _ => accessCycles acc m cross := by
  funext cross taken
  rw [templateCycles, h]

theorem templateCycles_other {k : Kind} (h : kindAccess k = none) (m : Mode) : templateCycles k m = otherCycles k m := by
  funext cross taken
  rw [templateCycles, h]

theorem executeCycle_access {k : Kind} {acc : Access} (h : kindAccess k = some acc) (m : Mode) (s : State) :
    executeCycle k m s = cycleAccess acc m s := by
  rw [executeCycle, h]

theorem executeCycle_other {k : Kind} (h : kindAccess k = none) (m : Mode) (s : State) :
    executeCycle k m s = cycleOther k m s := by
  rw [executeCycle, h]

/-- The counts of the opcode table are those of the templates (R86, R87, R142). -/
theorem optab_cycles : ∀ op : Byte, ∀ cross taken : Bool, (optab op).kind ≠ .ill →
    (optab op).cycles cross taken = templateCycles (optab op).kind (optab op).mode cross taken := by
  decide +kernel

theorem optab_rel : ∀ op : Byte, (optab op).mode = .rel → (optab op).base = 2 ∧ (optab op).pcx = false := by
  decide +kernel

/-- Every documented instruction has 2 to 7 cycles. -/
theorem optab_cycles_bounds : ∀ op : Byte, ∀ cross taken : Bool, (optab op).kind ≠ .ill →
    2 ≤ (optab op).cycles cross taken ∧ (optab op).cycles cross taken ≤ 7 := by
  decide +kernel

theorem hasRow_iff (op : Byte) (l : Latches) :
    hasRow (optab op) l = true ↔
      (optab op).kind ≠ .ill ∧ 2 ≤ l.t ∧ l.t ≤ (optab op).cycles l.cross l.taken := by
  have hrel := optab_rel op
  unfold hasRow Entry.cycles
  cases hm : (optab op).mode <;> simp only [hm] at hrel ⊢
  case rel =>
    obtain ⟨hb, hp⟩ := hrel trivial
    cases l.taken <;> cases l.cross <;> simp [hb, hp]
    all_goals omega
  all_goals
    cases (optab op).pcx <;> cases l.cross <;> simp
    all_goals omega

theorem t_bounds_of_hasRow {op : Byte} {l : Latches} (h : hasRow (optab op) l = true) : 2 ≤ l.t ∧ l.t ≤ 7 := by
  obtain ⟨hk, h2, hle⟩ := (hasRow_iff op l).1 h
  exact ⟨h2, hle.trans (optab_cycles_bounds op l.cross l.taken hk).2⟩

/-- Every documented instruction has a cycle 2 (R142). -/
theorem hasRow_two {op : Byte} (hk : (optab op).kind ≠ .ill) {l : Latches} (ht : l.t = 2) : hasRow (optab op) l = true :=
  (hasRow_iff op l).2 ⟨hk, ht.ge, ht ▸ (optab_cycles_bounds op l.cross l.taken hk).1⟩

/-! ## Each row of a template -/

/-- A row fits a template of `n` cycles, by the page-cross report and the branch condition: there is such a row, and where more
follow, the next cycle is one of the `n`, and IR and `brk_flag` stay (R104, R142). -/
def Cycle.Fits (n : Bool → Bool → Nat) (s : State) : Cycle → Prop
  | .more u =>
    u.latches.t = s.latches.t ∧ u.latches.ir = s.latches.ir ∧ u.brkFlag = s.brkFlag ∧
      s.latches.t < n u.latches.cross u.latches.taken
  | .last _ => True
  | .noRow => False

theorem Access.operandCycles_pos (acc : Access) : 0 < acc.operandCycles := by
  cases acc <;> simp [Access.operandCycles]

/-! The dummy read of the modes that may cross a page (R150, R152): there is none, or one cycle before the operand cycles. -/

theorem Access.dummyCycles_cases (acc : Access) (cross : Bool) : acc.dummyCycles cross = 0 ∨ acc.dummyCycles cross = 1 := by
  cases acc <;> cases cross <;> simp [Access.dummyCycles]

/-- Only a read goes without it. -/
theorem Access.read_of_dummyCycles {acc : Access} {cross : Bool} (h : acc.dummyCycles cross = 0) :
    ∃ op, acc = .read op ∧ cross = false := by
  match acc, cross with
  | .read op, false => exact ⟨op, rfl, rfl⟩
  | .read _, true | .write _, _ | .modify _, _ => cases h

theorem indexedTail_of_none {acc : Access} {s : State} (h : acc.dummyCycles s.latches.cross = 0) :
    indexedTail acc s = accessTail acc 0 s := by
  obtain ⟨op, rfl, hcross⟩ := Access.read_of_dummyCycles h
  simp only [indexedTail, hcross]

theorem indexedTail_of_one {acc : Access} {s : State} (h : acc.dummyCycles s.latches.cross = 1) :
    indexedTail acc s = .more (s.dummyRead s.latches.unc) := by
  unfold indexedTail
  split
  · rename_i hcross
    rw [hcross] at h
    cases h
  · rfl

theorem afterDummy_of_one {acc : Access} {s : State} (h : acc.dummyCycles s.latches.cross = 1) (j : Nat) :
    afterDummy acc j s = accessTail acc j s := by
  unfold afterDummy
  split
  · rename_i hcross
    rw [hcross] at h
    cases h
  · rfl

section
variable {acc : Access} {s : State}

/-- The operand cycles, where they begin at cycle `t0` (R144). -/
theorem accessTail_fits {n : Bool → Bool → Nat} {j t0 : Nat} (ht : s.latches.t = j + t0)
    (hle : s.latches.t ≤ n s.latches.cross s.latches.taken)
    (hn : n s.latches.cross s.latches.taken + 1 = t0 + acc.operandCycles) : (accessTail acc j s).Fits n s := by
  match acc, j with
  | .read _, 0 | .write _, 0 | .modify _, 2 => trivial
  | .modify _, 0 | .modify _, 1 =>
    refine ⟨rfl, rfl, rfl, ?_⟩
    show s.latches.t < n s.latches.cross s.latches.taken
    rw [Access.operandCycles] at hn
    omega
  | .read _, j + 1 | .write _, j + 1 | .modify _, j + 3 =>
    rw [Access.operandCycles] at hn
    omega

/-- The cycle `t0` after the address is known, in the modes that may cross a page (R150, R152). -/
theorem indexedTail_fits {n : Bool → Nat} {t0 : Nat} (ht : s.latches.t = t0)
    (hle : s.latches.t ≤ n s.latches.cross)
    (hn : n s.latches.cross + 1 = t0 + acc.dummyCycles s.latches.cross + acc.operandCycles) :
    (indexedTail acc s).Fits (fun cross _ => n cross) s := by
  rcases acc.dummyCycles_cases s.latches.cross with h | h
  · rw [indexedTail_of_none h]
    exact accessTail_fits (t0 := t0) (by omega) hle (by omega)
  · have hpos := acc.operandCycles_pos
    rw [indexedTail_of_one h]
    refine ⟨rfl, rfl, rfl, ?_⟩
    show s.latches.t < n s.latches.cross
    omega

/-- The cycles after it. -/
theorem afterDummy_fits {n : Bool → Nat} {j t0 : Nat} (ht : s.latches.t = j + (t0 + 1))
    (hle : s.latches.t ≤ n s.latches.cross)
    (hn : n s.latches.cross + 1 = t0 + acc.dummyCycles s.latches.cross + acc.operandCycles) :
    (afterDummy acc j s).Fits (fun cross _ => n cross) s := by
  rcases acc.dummyCycles_cases s.latches.cross with h | h
  · obtain ⟨op, rfl, -⟩ := Access.read_of_dummyCycles h
    rw [Access.operandCycles] at hn
    omega
  · rw [afterDummy_of_one h]
    exact accessTail_fits (t0 := t0 + 1) ht hle (by omega)

/-- A row with more after it, of a template with `n` cycles. -/
theorem Cycle.fits_more {n : Bool → Bool → Nat} {s u : State} {t : Nat} (ht : s.latches.t = t)
    (hu : u.latches.t = s.latches.t) (hir : u.latches.ir = s.latches.ir) (hbrk : u.brkFlag = s.brkFlag)
    (hlt : t < n u.latches.cross u.latches.taken) : (Cycle.more u).Fits n s :=
  ⟨hu, hir, hbrk, by rw [ht]; exact hlt⟩

section
variable (h2 : 2 ≤ s.latches.t)
include h2

theorem cycleZp_fits (hle : s.latches.t ≤ 2 + acc.operandCycles) :
    (cycleZp acc s).Fits (fun _ _ => 2 + acc.operandCycles) s := by
  have hpos := acc.operandCycles_pos
  unfold cycleZp
  split
  case h_1 | h_2 => omega
  case h_3 ht => exact Cycle.fits_more ht rfl rfl rfl (by omega)
  case h_4 ht => exact accessTail_fits (t0 := 3) ht hle (by omega)

theorem cycleZpi_fits (idx : Byte) (hle : s.latches.t ≤ 3 + acc.operandCycles) :
    (cycleZpi acc idx s).Fits (fun _ _ => 3 + acc.operandCycles) s := by
  have hpos := acc.operandCycles_pos
  unfold cycleZpi
  split
  case h_1 | h_2 => omega
  case h_3 ht | h_4 ht => exact Cycle.fits_more ht rfl rfl rfl (by omega)
  case h_5 ht => exact accessTail_fits (t0 := 4) ht hle (by omega)

theorem cycleAbs_fits (hle : s.latches.t ≤ 3 + acc.operandCycles) :
    (cycleAbs acc s).Fits (fun _ _ => 3 + acc.operandCycles) s := by
  have hpos := acc.operandCycles_pos
  unfold cycleAbs
  split
  case h_1 | h_2 => omega
  case h_3 ht | h_4 ht => exact Cycle.fits_more ht rfl rfl rfl (by omega)
  case h_5 ht => exact accessTail_fits (t0 := 4) ht hle (by omega)

theorem cycleAbi_fits (idx : Byte) (hle : s.latches.t ≤ 3 + acc.dummyCycles s.latches.cross + acc.operandCycles) :
    (cycleAbi acc idx s).Fits (fun cross _ => 3 + acc.dummyCycles cross + acc.operandCycles) s := by
  have hpos := acc.operandCycles_pos
  unfold cycleAbi
  split
  case h_1 | h_2 => omega
  case h_3 ht | h_4 ht => exact Cycle.fits_more ht rfl rfl rfl (by omega)
  case h_5 ht => exact indexedTail_fits (n := fun cross => 3 + acc.dummyCycles cross + acc.operandCycles) ht hle (by omega)
  case h_6 ht => exact afterDummy_fits (n := fun cross => 3 + acc.dummyCycles cross + acc.operandCycles) ht hle (by omega)

theorem cycleIzx_fits (hle : s.latches.t ≤ 5 + acc.operandCycles) :
    (cycleIzx acc s).Fits (fun _ _ => 5 + acc.operandCycles) s := by
  have hpos := acc.operandCycles_pos
  unfold cycleIzx
  dsimp only
  split
  case h_1 | h_2 => omega
  case h_3 ht | h_4 ht | h_5 ht | h_6 ht => exact Cycle.fits_more ht rfl rfl rfl (by omega)
  case h_7 ht => exact accessTail_fits (t0 := 6) ht hle (by omega)

theorem cycleIzy_fits (hle : s.latches.t ≤ 4 + acc.dummyCycles s.latches.cross + acc.operandCycles) :
    (cycleIzy acc s).Fits (fun cross _ => 4 + acc.dummyCycles cross + acc.operandCycles) s := by
  have hpos := acc.operandCycles_pos
  unfold cycleIzy
  dsimp only
  split
  case h_1 | h_2 => omega
  case h_3 ht | h_4 ht | h_5 ht => exact Cycle.fits_more ht rfl rfl rfl (by omega)
  case h_6 ht => exact indexedTail_fits (n := fun cross => 4 + acc.dummyCycles cross + acc.operandCycles) ht hle (by omega)
  case h_7 ht => exact afterDummy_fits (n := fun cross => 4 + acc.dummyCycles cross + acc.operandCycles) ht hle (by omega)

/-- The template of every mode (R145 to R152). -/
theorem cycleAccess_fits (m : Mode) (hle : s.latches.t ≤ accessCycles acc m s.latches.cross) :
    (cycleAccess acc m s).Fits (fun cross _ => accessCycles acc m cross) s := by
  cases m with
  | imp | ind | rel => exact absurd (h2.trans hle) (Nat.not_succ_le_zero 1)
  | acc =>
    cases acc with
    | modify op =>
      have ht : s.latches.t = 2 := le_antisymm hle h2
      simp [cycleAccess, cycleAcc, ht, Cycle.Fits]
    | read _ | write _ => exact absurd (h2.trans hle) (Nat.not_succ_le_zero 1)
  | imm =>
    cases acc with
    | read op =>
      have ht : s.latches.t = 2 := le_antisymm hle h2
      simp [cycleAccess, cycleImm, ht, Cycle.Fits]
    | write _ | modify _ => exact absurd (h2.trans hle) (Nat.not_succ_le_zero 1)
  | zp => exact cycleZp_fits h2 hle
  | zpx | zpy => exact cycleZpi_fits h2 _ hle
  | abs => exact cycleAbs_fits h2 hle
  | abx | aby => exact cycleAbi_fits h2 _ hle
  | izx => exact cycleIzx_fits h2 hle
  | izy => exact cycleIzy_fits h2 hle

theorem cycleImp_fits (op : State → State) (hle : s.latches.t ≤ 2) : (cycleImp op s).Fits (fun _ _ => 2) s := by
  have ht : s.latches.t = 2 := le_antisymm hle h2
  simp [cycleImp, ht, Cycle.Fits]

theorem cycleRel_fits (cond : Flags → Bool)
    (hle : s.latches.t ≤ 2 + bit01 s.latches.taken + bit01 (s.latches.taken && s.latches.cross)) :
    (cycleRel cond s).Fits (fun cross taken => 2 + bit01 taken + bit01 (taken && cross)) s := by
  unfold cycleRel
  split
  case h_1 ht =>
    split
    · exact Cycle.fits_more ht rfl rfl rfl (Nat.lt_add_right _ (Nat.lt_succ_self 2))
    · trivial
  case h_2 | h_4 => trivial
  case h_3 ht htaken hcross => exact Cycle.fits_more ht rfl rfl rfl (by simp [htaken, hcross, bit01])
  case h_5 hno2 hno3 hno3' hno4 =>
    cases htaken : s.latches.taken <;> cases hcross : s.latches.cross <;>
      simp [htaken, hcross, bit01] at hle hno2 hno3 hno3' hno4 <;> omega

theorem cycleJmpAbs_fits (hle : s.latches.t ≤ 3) : (cycleJmpAbs s).Fits (fun _ _ => 3) s := by
  unfold cycleJmpAbs
  split
  case h_1 ht => exact Cycle.fits_more ht rfl rfl rfl (by decide)
  case h_2 => trivial
  case h_3 => grind

theorem cycleJmpInd_fits (hle : s.latches.t ≤ 5) : (cycleJmpInd s).Fits (fun _ _ => 5) s := by
  unfold cycleJmpInd
  dsimp only
  split
  case h_1 ht | h_2 ht | h_3 ht => exact Cycle.fits_more ht rfl rfl rfl (by decide)
  case h_4 => trivial
  case h_5 => grind

theorem cycleJsr_fits (hle : s.latches.t ≤ 6) : (cycleJsr s).Fits (fun _ _ => 6) s := by
  unfold cycleJsr
  split
  case h_1 ht | h_2 ht | h_3 ht | h_4 ht => exact Cycle.fits_more ht rfl rfl rfl (by decide)
  case h_5 => trivial
  case h_6 => grind

theorem cycleRts_fits (hle : s.latches.t ≤ 6) : (cycleRts s).Fits (fun _ _ => 6) s := by
  unfold cycleRts
  split
  case h_1 ht | h_2 ht | h_3 ht | h_4 ht => exact Cycle.fits_more ht rfl rfl rfl (by decide)
  case h_5 => trivial
  case h_6 => grind

theorem cycleRti_fits (hle : s.latches.t ≤ 6) : (cycleRti s).Fits (fun _ _ => 6) s := by
  unfold cycleRti
  split
  case h_1 ht | h_2 ht | h_3 ht | h_4 ht => exact Cycle.fits_more ht rfl rfl rfl (by decide)
  case h_5 => trivial
  case h_6 => grind

theorem cyclePush_fits (v : State → Byte) (hle : s.latches.t ≤ 3) : (cyclePush v s).Fits (fun _ _ => 3) s := by
  unfold cyclePush
  split
  case h_1 ht => exact Cycle.fits_more ht rfl rfl rfl (by decide)
  case h_2 => trivial
  case h_3 => grind

theorem cyclePull_fits (op : Byte → State → State) (hle : s.latches.t ≤ 4) :
    (cyclePull op s).Fits (fun _ _ => 4) s := by
  unfold cyclePull
  split
  case h_1 ht | h_2 ht => exact Cycle.fits_more ht rfl rfl rfl (by decide)
  case h_3 => trivial
  case h_4 => grind

end

/-- Cycles 3 to 7 of an entry through a vector (R161, R162). -/
theorem cycleEntry_fits (vector : Word) (h3 : 3 ≤ s.latches.t) (hle : s.latches.t ≤ 7) :
    (cycleEntry vector s).Fits (fun _ _ => 7) s := by
  unfold cycleEntry
  split
  case h_1 ht | h_2 ht | h_3 ht | h_4 ht => exact Cycle.fits_more ht rfl rfl rfl (by decide)
  case h_5 => trivial
  case h_6 => grind

theorem cycleBrk_fits (h2 : 2 ≤ s.latches.t) (hle : s.latches.t ≤ 7) : (cycleBrk s).Fits (fun _ _ => 7) s := by
  unfold cycleBrk
  split
  case h_1 ht => exact Cycle.fits_more ht rfl rfl rfl (by decide)
  case h_2 => exact cycleEntry_fits irqVector (by grind) hle

theorem cycleInt_fits (h1 : 1 ≤ s.latches.t) (hle : s.latches.t ≤ 7) : (cycleInt s).Fits (fun _ _ => 7) s := by
  unfold cycleInt
  split
  case h_1 ht | h_2 ht => exact Cycle.fits_more ht rfl rfl rfl (by decide)
  case h_3 => exact cycleEntry_fits _ (by grind) hle

theorem cycleReset_fits (h1 : 1 ≤ s.latches.t) (hle : s.latches.t ≤ 7) : (cycleReset s).Fits (fun _ _ => 7) s := by
  unfold cycleReset
  split
  case h_1 ht | h_2 ht | h_3 ht | h_4 ht | h_5 ht | h_6 ht => exact Cycle.fits_more ht rfl rfl rfl (by decide)
  case h_7 => trivial
  case h_8 => grind

/-- The templates of the kinds without an access class (R145, R153 to R161). -/
theorem cycleOther_fits (k : Kind) (m : Mode) (h2 : 2 ≤ s.latches.t)
    (hle : s.latches.t ≤ otherCycles k m s.latches.cross s.latches.taken) : (cycleOther k m s).Fits (otherCycles k m) s := by
  cases k with
  | jmp =>
    by_cases hm : m = .ind
    · have hn : otherCycles .jmp m = fun _ _ => 5 := by
        funext
        exact if_pos hm
      rw [hn] at hle ⊢
      rw [cycleOther, if_pos hm]
      exact cycleJmpInd_fits h2 hle
    · have hn : otherCycles .jmp m = fun _ _ => 3 := by
        funext
        exact if_neg hm
      rw [hn] at hle ⊢
      rw [cycleOther, if_neg hm]
      exact cycleJmpAbs_fits h2 hle
  | jsr => exact cycleJsr_fits h2 hle
  | rts => exact cycleRts_fits h2 hle
  | rti => exact cycleRti_fits h2 hle
  | brk => exact cycleBrk_fits h2 hle
  | pha => exact cyclePush_fits h2 State.a hle
  | php => exact cyclePush_fits h2 (fun s => pPush s.flags true) hle
  | pla | plp => exact cyclePull_fits h2 _ hle
  | tax | tay | txa | tya | tsx | txs | inx | iny | dex | dey | clc | sec | cli | sei | clv | cld | sed | nop =>
    exact cycleImp_fits h2 _ hle
  | bpl | bmi | bvc | bvs | bcc | bcs | bne | beq =>
    simp only [cycleOther, kindImpliedOp, kindCondition]
    exact cycleRel_fits h2 _ hle
  | _ => exact absurd (h2.trans hle) (Nat.not_succ_le_zero 1)

/-- Every cycle from 2 to the last of an instruction's template is a row of it (R104, R142, R166). -/
theorem executeCycle_fits (k : Kind) (m : Mode) (h2 : 2 ≤ s.latches.t)
    (hle : s.latches.t ≤ templateCycles k m s.latches.cross s.latches.taken) :
    (executeCycle k m s).Fits (templateCycles k m) s := by
  cases hacc : kindAccess k with
  | some acc =>
    rw [templateCycles_access hacc] at hle ⊢
    rw [executeCycle_access hacc]
    exact cycleAccess_fits h2 m hle
  | none =>
    rw [templateCycles_other hacc] at hle ⊢
    rw [executeCycle_other hacc]
    exact cycleOther_fits k m h2 hle

end

end Sys2Proof.Machine
end

section
/-! SUPPORT. Progress: from a state that meets the invariant every cycle is one the machine has, it keeps the invariant and brings
the next boundary nearer, so that every run of cycles ends and no session of the host fails (R104, R105, R112, R113). -/

namespace Sys2Proof.Machine

/-! ## One cycle from a state that meets the invariant -/

/-- A row of the instruction in flight (R104). -/
theorem executeCycle_fits_optab {s : State} (hrow : hasRow (optab s.latches.ir) s.latches = true) :
    (executeCycle (optab s.latches.ir).kind (optab s.latches.ir).mode s).Fits (optab s.latches.ir).cycles s := by
  obtain ⟨hk, h2, hle⟩ := (hasRow_iff _ _).1 hrow
  have hn : (optab s.latches.ir).cycles = templateCycles (optab s.latches.ir).kind (optab s.latches.ir).mode := by
    funext cross taken
    exact optab_cycles _ cross taken hk
  rw [hn] at hle ⊢
  exact executeCycle_fits _ _ h2 hle

/-- The next row is one of the instruction's as well. -/
theorem Cycle.Fits.hasRow_nextCycle {s u : State} (hrow : hasRow (optab s.latches.ir) s.latches = true)
    (h : (Cycle.more u).Fits (optab s.latches.ir).cycles s) : hasRow (optab u.latches.ir) u.nextCycle.latches = true := by
  obtain ⟨hk, h2, -⟩ := (hasRow_iff _ _).1 hrow
  obtain ⟨ht, hir, -, hlt⟩ := h
  have hnext : u.nextCycle.latches.t = u.latches.t + 1 := rfl
  rw [hir]
  refine (hasRow_iff _ _).2 ⟨hk, by omega, ?_⟩
  rw [hnext, ht]
  exact hlt

/-- A bound on the cycles left to the next boundary, the entry of an interrupt included (R105). -/
def State.cyclesLeft (s : State) : Nat :=
  match s.fsm with
  | .trapped => 1
  | .fetch => 14
  | .execute => 15 - s.latches.t
  | .reset => 8 - s.latches.t
  | .interrupt => 8 - s.latches.t

/-- After a cycle from the first state the second is one of the sequencer's, and is at a boundary or nearer to it. -/
structure State.Advances (s t : State) : Prop where
  latches : latchesFit t
  brk : t.brkFlag = brkInFlight t
  progress : t.atBoundary = true ∨ t.cyclesLeft < s.cyclesLeft

theorem advances_endInstruction (s u : State) : s.Advances u.endInstruction := ⟨trivial, rfl, .inl rfl⟩

/-- InterruptCheck accepts through one of two vectors or does nothing (R104, R284, R285). -/
theorem advances_interruptCheck {s : State} (hs : 7 < s.cyclesLeft) (u : State) :
    s.Advances u.endInstruction.interruptCheck := by
  have h17 : 1 ≤ 7 := by decide
  unfold State.interruptCheck
  split
  · exact ⟨⟨le_rfl, h17, .inl rfl⟩, rfl, .inr hs⟩
  · split
    · exact ⟨⟨le_rfl, h17, .inr rfl⟩, rfl, .inr hs⟩
    · exact advances_endInstruction s u

/-- The outcome of a row that fits its template. -/
theorem Cycle.Fits.outcome {n : Bool → Bool → Nat} {s : State} {c : Cycle} {fin : State → State} (h : c.Fits n s)
    (hmore : ∀ u, c = .more u → s.Advances u.nextCycle) (hlast : ∀ u, s.Advances (fin u)) :
    ∃ t, c.outcome fin = .next t ∧ s.Advances t := by
  cases c with
  | more u => exact ⟨_, rfl, hmore u rfl⟩
  | last u => exact ⟨_, rfl, hlast u⟩
  | noRow => exact h.elim

/-- The vector fixed at InterruptCheck stays through the entry (R162). -/
theorem cycleInt_more_vector {s u : State} (h : cycleInt s = .more u) : u.latches.vector = s.latches.vector := by
  unfold cycleInt cycleEntry at h
  split at h
  · cases h; rfl
  · cases h; rfl
  · split at h <;> cases h <;> rfl

theorem advances_execute {s : State} (hf : s.fsm = .execute) (hrow : hasRow (optab s.latches.ir) s.latches = true)
    (hbrk : s.brkFlag = ((optab s.latches.ir).kind == .brk)) : ∃ t, stepCycle s = .next t ∧ s.Advances t := by
  have hfits := executeCycle_fits_optab hrow
  have hmax := (t_bounds_of_hasRow hrow).2
  have hleft : s.cyclesLeft = 15 - s.latches.t := by rw [State.cyclesLeft, hf]
  simp only [stepCycle, hf]
  refine hfits.outcome (fun u hu => ?_) fun u => advances_interruptCheck (by omega) u
  rw [hu] at hfits
  have hfsm : u.nextCycle.fsm = .execute := (executeCycle_more_fsm hu).trans hf
  have hnext := hfits.hasRow_nextCycle hrow
  obtain ⟨ht, hir, hub, -⟩ := hfits
  have ht : u.nextCycle.latches.t = s.latches.t + 1 := congrArg (· + 1) ht
  refine ⟨?_, ?_, .inr ?_⟩
  · rw [latchesFit, hfsm]
    exact hnext
  · rw [brkInFlight, hfsm]
    show u.brkFlag = ((optab u.latches.ir).kind == .brk)
    rw [hub, hbrk, hir]
  · rw [hleft, State.cyclesLeft, hfsm, ht]
    show 15 - (s.latches.t + 1) < _
    omega

theorem advances_reset {s : State} (hf : s.fsm = .reset) (ht : 1 ≤ s.latches.t ∧ s.latches.t ≤ 7)
    (hbrk : s.brkFlag = false) : ∃ t, stepCycle s = .next t ∧ s.Advances t := by
  have hfits := cycleReset_fits ht.1 ht.2
  simp only [stepCycle, hf]
  refine hfits.outcome (fun u hu => ?_) (advances_endInstruction s)
  rw [hu] at hfits
  obtain ⟨hut, -, hub, (hlt : s.latches.t < 7)⟩ := hfits
  have hfsm : u.nextCycle.fsm = .reset := (cycleReset_ignoresControl.more_fsm hu).trans hf
  have hut : u.nextCycle.latches.t = s.latches.t + 1 := congrArg (· + 1) hut
  refine ⟨?_, ?_, .inr ?_⟩
  · simp only [latchesFit, hfsm, hut]
    omega
  · simp only [brkInFlight, hfsm]
    exact hub.trans hbrk
  · simp only [State.cyclesLeft, hfsm, hf, hut]
    omega

theorem advances_interrupt {s : State} (hf : s.fsm = .interrupt) (h1 : 1 ≤ s.latches.t) (h7 : s.latches.t ≤ 7)
    (hv : s.latches.vector = nmiVector ∨ s.latches.vector = irqVector) (hbrk : s.brkFlag = false) :
    ∃ t, stepCycle s = .next t ∧ s.Advances t := by
  have hfits := cycleInt_fits h1 h7
  simp only [stepCycle, hf]
  refine hfits.outcome (fun u hu => ?_) (advances_endInstruction s)
  rw [hu] at hfits
  obtain ⟨hut, -, hub, (hlt : s.latches.t < 7)⟩ := hfits
  have hfsm : u.nextCycle.fsm = .interrupt := (cycleInt_ignoresControl.more_fsm hu).trans hf
  have hut : u.nextCycle.latches.t = s.latches.t + 1 := congrArg (· + 1) hut
  have huv : u.nextCycle.latches.vector = s.latches.vector := (cycleInt_more_vector hu :)
  refine ⟨?_, ?_, .inr ?_⟩
  · simp only [latchesFit, hfsm, hut, huv]
    exact ⟨by omega, by omega, hv⟩
  · simp only [brkInFlight, hfsm]
    exact hub.trans hbrk
  · simp only [State.cyclesLeft, hfsm, hf, hut]
    omega

/-- The fetch cycle of an undefined byte traps, that of any other begins its template at cycle 2 (R104, R141, R296). -/
theorem advances_fetch {s : State} (hf : s.fsm = .fetch) (hbrk : s.brkFlag = false)
    (hpolicy : s.cfg.illegalPolicy = .trap) : ∃ t, stepCycle s = .next t ∧ s.Advances t := by
  by_cases hk : (optab (s.busValue s.pc)).kind = .ill
  · refine ⟨s.fetchOpcode.raiseIllegalOpcode (s.busValue s.pc), ?_, trivial, hbrk, .inl rfl⟩
    simp only [stepCycle, hf, fetchCycle, hk, if_true]
    exact illegalOpcode_trap _ hpolicy
  · refine ⟨_, stepCycle_fetch hf hk, ?_, rfl, .inr ?_⟩
    · exact hasRow_two hk rfl
    · simp only [State.cyclesLeft, hf]
      decide

theorem advances_stepCycle {s : State} (hs : s.Inv) (hpolicy : s.cfg.illegalPolicy = .trap) :
    ∃ t, stepCycle s = .next t ∧ s.Advances t := by
  have hl := hs.latches
  have hb := hs.brk
  unfold latchesFit brkInFlight at *
  cases hf : s.fsm <;> simp only [hf] at hl hb
  case trapped => exact ⟨s, stepCycle_trapped hf, hs.latches, hs.brk, .inl (by rw [State.atBoundary, hf])⟩
  case reset => exact advances_reset hf hl hb
  case interrupt => exact advances_interrupt hf hl.1 hl.2.1 hl.2.2 hb
  case fetch => exact advances_fetch hf hb hpolicy
  case execute => exact advances_execute hf hl hb

/-- A cycle from a state that meets the invariant is one, and ends in such a state (R104). -/
theorem inv_stepCycle {s : State} (hs : s.Inv) (hpolicy : s.cfg.illegalPolicy = .trap) :
    ∃ t, stepCycle s = .next t ∧ t.Inv ∧ t.cfg = s.cfg ∧ (t.atBoundary = true ∨ t.cyclesLeft < s.cyclesLeft) := by
  obtain ⟨t, ht, hadv⟩ := advances_stepCycle hs hpolicy
  have hkeeps := keepsPlatform_stepCycle s
  rw [ht] at hkeeps
  have hmap : t.mappings = s.mappings := hkeeps.mappings
  exact ⟨t, ht, ⟨hkeeps.memWf hs.memWf, hmap ▸ hs.mappingsDisjoint, hadv.latches, hadv.brk⟩, hkeeps.cfg, hadv.progress⟩

/-! ## Runs of cycles and sessions of the host -/

theorem State.Inv.cyclesLeft_bounds {s : State} (hs : s.Inv) : 0 < s.cyclesLeft ∧ s.cyclesLeft ≤ 14 := by
  have hl := hs.latches
  unfold latchesFit at hl
  unfold State.cyclesLeft
  cases hf : s.fsm <;> simp only [hf] at hl ⊢
  case trapped | fetch => decide
  case reset => omega
  case interrupt => omega
  case execute =>
    have hbounds := t_bounds_of_hasRow hl
    omega

/-- As many cycles as may be left reach the boundary (R105). -/
theorem inv_runCycles {fuel : Nat} {s : State} (hs : s.Inv) (hpolicy : s.cfg.illegalPolicy = .trap)
    (hfuel : s.cyclesLeft ≤ fuel) : ∃ t, runCycles fuel s = .next t ∧ t.Inv ∧ t.cfg = s.cfg := by
  induction fuel generalizing s with
  | zero =>
    have hpos := hs.cyclesLeft_bounds.1
    omega
  | succ fuel ih =>
    obtain ⟨u, hu, hinv, hcfg, hprogress⟩ := inv_stepCycle hs hpolicy
    simp only [runCycles, hu]
    split
    · exact ⟨u, rfl, hinv, hcfg⟩
    · rename_i hb
      have hless := hprogress.resolve_left hb
      obtain ⟨t, ht, htinv, htcfg⟩ := ih hinv (by rw [hcfg]; exact hpolicy) (by omega)
      exact ⟨t, ht, htinv, htcfg.trans hcfg⟩

theorem inv_executeInstruction {s : State} (hs : s.Inv) (hpolicy : s.cfg.illegalPolicy = .trap) :
    ∃ t, executeInstruction s = .next t ∧ t.Inv ∧ t.cfg = s.cfg := by
  unfold executeInstruction
  split
  · exact ⟨s, rfl, hs, rfl⟩
  all_goals exact inv_runCycles hs hpolicy hs.cyclesLeft_bounds.2

/-- Every host operation answers, in a state that meets the invariant (R100, R112, R113). -/
theorem inv_hostOp (op : HostOp) {s : State} (hs : s.Inv) (hpolicy : s.cfg.illegalPolicy = .trap) :
    ∃ t, op.run s = .next t ∧ t.Inv ∧ t.cfg = s.cfg := by
  obtain ⟨hmem, hmap, hlatches, hbrk⟩ := hs
  cases op with
  | reset => exact ⟨_, rfl, .of_atBoundary hmem hmap rfl fun _ => rfl, rfl⟩
  | setIrq b | triggerNmi => exact ⟨_, rfl, ⟨hmem, hmap, hlatches, hbrk⟩, rfl⟩
  | stepCycle =>
    obtain ⟨t, ht, hinv, hcfg, -⟩ := inv_stepCycle ⟨hmem, hmap, hlatches, hbrk⟩ hpolicy
    exact ⟨t, ht, hinv, hcfg⟩
  | executeInstruction => exact inv_executeInstruction ⟨hmem, hmap, hlatches, hbrk⟩ hpolicy

/-- Settles O14: by induction on the session, each operation of which answers in a state that meets the invariant. -/
theorem hostSessionsNeverFail : Obligations.HostSessionsNeverFail := by
  intro ops
  induction ops with
  | nil => exact fun s hs _ => ⟨s, rfl, hs⟩
  | cons op rest ih =>
    intro s hs hpolicy
    obtain ⟨u, hu, hinv, hcfg⟩ := inv_hostOp op hs hpolicy
    rw [runHost, hu]
    exact ih u hinv (by rw [hcfg]; exact hpolicy)

end Sys2Proof.Machine
end

section
/-! SUPPORT. The rows left of an instruction. From cycle 2 on the rows of a template end the instruction in one state, and a run of
cycles goes through them (R104, R105). The two levels differ on the way only in the sequencer's fields, which the end of an
instruction clears: two states with the same `endInstruction` differ in nothing else. -/

namespace Sys2Proof.Machine

/-! ## States up to the sequencer -/

/-- An operation that does not look at the sequencer's fields: up to them it gives the same whatever they are. -/
def IgnoresSequencer (g : State → State) : Prop :=
  ∀ s : State, (g s).endInstruction = (g s.endInstruction).endInstruction

theorem IgnoresSequencer.congr {g : State → State} (hg : IgnoresSequencer g) {s v : State}
    (hv : s.endInstruction = v.endInstruction) : (g s).endInstruction = (g v).endInstruction := by
  rw [hg s, hv, ← hg v]

/-- In the middle of an instruction: the first state has the latches `l` and is the second in all but the sequencer's fields. -/
structure State.StandsAt (s : State) (l : Latches) (v : State) : Prop where
  latches : s.latches = l
  same : s.endInstruction = v.endInstruction

namespace State.StandsAt

variable {s v : State} {l : Latches} (h : s.StandsAt l v)
include h

theorem t_eq : s.latches.t = l.t := congrArg Latches.t h.latches

theorem x_eq : s.x = v.x := (congrArg State.x h.same :)

theorem y_eq : s.y = v.y := (congrArg State.y h.same :)

theorem busValue_eq (a : Word) : s.busValue a = v.busValue a :=
  (congrArg (fun w : State => w.busValue a) h.same :)

theorem fetched_eq : s.busValue s.pc = v.busValue v.pc := (congrArg (fun w : State => w.busValue w.pc) h.same :)

theorem stackTop_eq : s.stackTop = v.stackTop := (congrArg State.stackTop h.same :)

theorem latch (f : Latches → Latches) : (s.latch f).StandsAt (f l) v :=
  ⟨congrArg f h.latches, h.same⟩

theorem nextCycle : s.nextCycle.StandsAt { l with t := l.t + 1 } v := h.latch _

theorem op {g : State → State} (hg : IgnoresSequencer g) (hl : (g s).latches = s.latches) : (g s).StandsAt l (g v) :=
  ⟨hl.trans h.latches, hg.congr h.same⟩

theorem readOperand (a : Word) : (s.readOperand a).StandsAt l (v.readOperand a) :=
  h.op (g := fun w => w.readOperand a) (fun _ => rfl) rfl

theorem dummyRead (a : Word) : (s.dummyRead a).StandsAt l (v.dummyRead a) :=
  h.op (g := fun w => w.dummyRead a) (fun _ => rfl) rfl

theorem internalCycle : s.internalCycle.StandsAt l v.internalCycle := h.op (fun _ => rfl) rfl

theorem pushPcHigh : s.pushPcHigh.StandsAt l v.pushPcHigh := h.op (fun _ => rfl) rfl

theorem pushPcLow : s.pushPcLow.StandsAt l v.pushPcLow := h.op (fun _ => rfl) rfl

theorem popSp : s.popSp.StandsAt l v.popSp := h.op (fun _ => rfl) rfl

theorem readStack : s.readStack.StandsAt l v.readStack := h.op (fun _ => rfl) rfl

theorem readAtPc : (s.readOperand s.pc).StandsAt l (v.readOperand v.pc) :=
  h.op (g := fun w => w.readOperand w.pc) (fun _ => rfl) rfl

theorem setPc {p q : Word} (hpq : p = q) : StandsAt { s with pc := p } l { v with pc := q } := by
  subst hpq
  exact h.op (g := fun w => { w with pc := p }) (fun _ => rfl) rfl

theorem setFlags {f g : Flags} (hfg : f = g) : StandsAt { s with flags := f } l { v with flags := g } := by
  subst hfg
  exact h.op (g := fun w => { w with flags := f }) (fun _ => rfl) rfl

theorem advancePc : s.advancePc.StandsAt l v.advancePc := h.op (fun _ => rfl) rfl

theorem fetchByte : s.fetchByte.StandsAt l v.fetchByte := h.op (fun _ => rfl) rfl

/-- The byte at PC is fetched into `lo` (R141). -/
theorem fetchLo : s.fetchLo.StandsAt { l with lo := v.busValue v.pc } v.fetchByte := by
  rw [← h.fetched_eq]
  exact h.fetchByte.latch _

/-- The byte at PC is fetched into `hi` (R141). -/
theorem fetchHi : s.fetchHi.StandsAt { l with hi := v.busValue v.pc } v.fetchByte := by
  rw [← h.fetched_eq]
  exact h.fetchByte.latch _

/-- The byte at PC is fetched into `zp` (R141). -/
theorem fetchZp : s.fetchZp.StandsAt { l with zp := v.busValue v.pc } v.fetchByte := by
  rw [← h.fetched_eq]
  exact h.fetchByte.latch _

/-- A byte is pulled into `lo`, and SP moves to the next (R157, R158). -/
theorem pullLo : (s.readStack.popSp.latch fun l => { l with lo := s.stackTop }).StandsAt
    { l with lo := v.stackTop } v.readStack.popSp := by
  rw [← h.stackTop_eq]
  exact h.readStack.popSp.latch _

/-- A byte is pulled into `m`, and SP moves to the next (R158). -/
theorem pullM : (s.readStack.popSp.latch fun l => { l with m := s.stackTop }).StandsAt
    { l with m := v.stackTop } v.readStack.popSp := by
  rw [← h.stackTop_eq]
  exact h.readStack.popSp.latch _

/-- A byte is read into `lo`. -/
theorem readLo (a : Word) : ((s.readOperand a).latch fun l => { l with lo := s.busValue a }).StandsAt
    { l with lo := v.busValue a } (v.readOperand a) := by
  rw [← h.busValue_eq]
  exact (h.readOperand a).latch _

/-- A byte is read into `hi`. -/
theorem readHi (a : Word) : ((s.readOperand a).latch fun l => { l with hi := s.busValue a }).StandsAt
    { l with hi := v.busValue a } (v.readOperand a) := by
  rw [← h.busValue_eq]
  exact (h.readOperand a).latch _

end State.StandsAt

/-! ## The rows left of an instruction -/

/-- From the first state the rows of a template end the instruction in the second (R103, R104). -/
inductive RowsEndIn (f : State → Cycle) : State → State → Prop
  | last {s u t : State} (h : f s = .last u) (ht : u.endInstruction = t) : RowsEndIn f s t
  | more {s u t : State} (h : f s = .more u) (hu : RowsEndIn f u.nextCycle t) : RowsEndIn f s t

/-- One row with more after it; the rows after it are those of any state that stands where it leads. -/
theorem RowsEndIn.step {f : State → Cycle} {s u v t : State} {l : Latches} (h : f s = .more u) (hu : u.StandsAt l v)
    (hrest : ∀ w : State, w.StandsAt { l with t := l.t + 1 } v → RowsEndIn f w t) : RowsEndIn f s t :=
  .more h (hrest _ hu.nextCycle)

/-- A run of cycles goes through the rows left, then through the interrupt entry if there is one (R105). There is fuel for
both, as an instruction has at most 7 cycles. -/
theorem RowsEndIn.runCycles {op : Byte} {s t : State} {fuel : Nat}
    (h : RowsEndIn (executeCycle (optab op).kind (optab op).mode) s t) (hf : s.fsm = .execute) (hir : s.latches.ir = op)
    (hrow : hasRow (optab s.latches.ir) s.latches = true) (hfuel : 15 ≤ fuel + s.latches.t) :
    runCycles fuel s = .next t.serviceInterrupts := by
  induction h generalizing fuel with
  | @last s u t h ht =>
    have hmax := (t_bounds_of_hasRow hrow).2
    obtain ⟨n, rfl⟩ := Nat.exists_eq_add_of_le' (show 8 ≤ fuel by omega)
    rw [runCycles_of_end n hf (congrArg optab hir) h, ht]
  | @more s u t h hu ih =>
    have hfits := executeCycle_fits_optab hrow
    rw [hir, h, ← hir] at hfits
    have hnext := hfits.hasRow_nextCycle hrow
    have hfsm : u.fsm = .execute := (executeCycle_more_fsm h).trans hf
    have hmax := (t_bounds_of_hasRow hrow).2
    obtain ⟨hut, huir, -, -⟩ := hfits
    have ht : u.nextCycle.latches.t = s.latches.t + 1 := congrArg (· + 1) hut
    obtain ⟨n, rfl⟩ := Nat.exists_eq_add_of_le' (show 1 ≤ fuel by omega)
    rw [runCycles_of_more n hf (congrArg optab hir) h hfsm]
    exact ih hfsm (huir.trans hir) hnext (by omega)

end Sys2Proof.Machine
end

section
/-! SUPPORT. Instructions with an access class at both levels (R144 to R152): the operand access as one operation, which is what
`exec` makes of the resolved operand and what the last rows of every template of a mode make. -/

namespace Sys2Proof.Machine

/-! ## Operand accesses at both levels (R144) -/

/-- The state before the operand access: the resolver's reads and the dummy read of the access class (R128). -/
def Access.before (acc : Access) (r : Resolution) : State :=
  match acc with
  | .read _ => r.beforeRead
  | .write _ => r.beforeWrite
  | .modify _ => r.beforeWrite

/-- The operand access at an effective address with the operation it commits (R144). -/
def Access.commit (acc : Access) (ea : Word) (s : State) : State :=
  match acc with
  | .read op => op (s.busValue ea) (s.readOperand ea)
  | .write v => s.writeOperand ea (v s)
  | .modify op => op.onMemory { ea := ea, unc := none, cross := false, after := s }

/-- The two writes of a read-modify-write access with its flags, the old value known (R144, R220). -/
def ModifyOp.writeBack (op : ModifyOp) (ea : Word) (m : Byte) (s : State) : State :=
  { (s.writeOperand ea m).writeOperand ea (op.value s.flags m) with flags := op.flags s.flags m }

theorem commit_modify (op : ModifyOp) (ea : Word) (s : State) :
    (Access.modify op).commit ea s = op.writeBack ea (s.busValue ea) (s.readOperand ea) := rfl

theorem writeBack_ignoresSequencer (op : ModifyOp) (ea : Word) (m : Byte) : IgnoresSequencer (op.writeBack ea m) :=
  fun _ => rfl

theorem Access.before_of_none (acc : Access) {r : Resolution} (h : acc.dummyCycles r.cross = 0) : acc.before r = r.after := by
  obtain ⟨op, rfl, hcross⟩ := Access.read_of_dummyCycles h
  rw [Access.before, Resolution.beforeRead, hcross]
  cases r.unc <;> rfl

theorem Access.before_of_one (acc : Access) {r : Resolution} {u : Word} (h : acc.dummyCycles r.cross = 1)
    (hu : r.unc = some u) : acc.before r = r.after.dummyRead u := by
  cases acc with
  | read op =>
    have hcross : r.cross = true := by
      cases hc : r.cross with
      | true => rfl
      | false =>
        rw [hc] at h
        cases h
    simp [Access.before, Resolution.beforeRead, hu, hcross]
  | write _ | modify _ => simp [Access.before, Resolution.beforeWrite, hu]

/-- A mode without an un-carried address has no dummy read (R128). -/
theorem Access.before_of_unc (acc : Access) {r : Resolution} (h : r.unc = none) : acc.before r = r.after := by
  cases acc <;> simp [Access.before, Resolution.beforeRead, Resolution.beforeWrite, h]

theorem writeValue_busOnly {k : Kind} {v : State → Byte} (h : kindAccess k = some (.write v)) {s u : State}
    (hu : BusOnly s u) : v u = v s := by
  obtain ⟨tr, dg, rfl⟩ := hu
  cases k <;> cases h <;> rfl

/-- An instruction on a memory operand is its access class at the resolved address (R120, R144). -/
theorem exec_of_resolve {i : Instr} {o : Operand} {acc : Access} {s : State} {r : Resolution} (hi : i.WellFormed)
    (ho : instrOperand? i = some o) (hk : kindAccess i.kind = some acc) (hr : resolve o s = some r) :
    exec i s = .next (acc.commit r.ea (acc.before r)).endInstruction := by
  have hm := modes_of_wellFormed hi ho
  cases acc with
  | read op => exact (exec_of_read ho hk s).trans (readClass_of_resolve op hm hr)
  | write v =>
    have hv : v r.beforeWrite = v s := writeValue_busOnly hk ((resolve_busOnly hr).trans r.beforeWrite_busOnly)
    rw [exec_of_write ho hk, writeClass_next (v s) hm hr, ← hv]
    rfl
  | modify op =>
    rw [exec_of_modify ho hk, modifyClass_next op hm hr]
    rfl

section
variable {k : Kind} {acc : Access} (hk : kindAccess k = some acc)

theorem readOp_ignoresSequencer {op : Byte → State → State} (hop : kindAccess k = some (.read op)) (m : Byte) :
    IgnoresSequencer (op m) := by
  intro w
  cases k <;> cases hop <;> rfl

include hk

theorem commit_ignoresSequencer (ea : Word) : IgnoresSequencer (acc.commit ea) := by
  intro w
  cases acc with
  | read op => exact (readOp_ignoresSequencer hk (w.busValue ea)).congr rfl
  | write _ => cases k <;> cases hk <;> rfl
  | modify _ => rfl

/-- The operand cycles, from the cycle of `l` on, are the operand access (R144). -/
theorem rowsEndIn_operand {f : State → Cycle} {s v : State} {l : Latches} (h : s.StandsAt l v)
    (hf : ∀ j (w : State), w.latches.t = j + l.t → w.latches.cross = l.cross → f w = accessTail acc j w) :
    RowsEndIn f s (acc.commit l.ea v).endInstruction := by
  obtain ⟨rfl, hv⟩ := h
  rw [← (commit_ignoresSequencer hk _).congr hv]
  have hcycle : ∀ j (w : State), w.latches.t = s.latches.t + j → w.latches.cross = s.latches.cross →
      f w = accessTail acc j w := fun j w hw => hf j w (by omega)
  cases acc with
  | read op => exact .last (hcycle 0 s rfl rfl) rfl
  | write v => exact .last (hcycle 0 s rfl rfl) rfl
  | modify op =>
    have hwrites : ∀ w : State, w.latches.t = s.latches.t + 1 → w.latches.cross = s.latches.cross →
        w.endInstruction = (s.readOperand s.latches.ea).endInstruction → w.latches.ea = s.latches.ea →
        w.latches.m = s.busValue s.latches.ea →
        RowsEndIn f w ((Access.modify op).commit s.latches.ea s).endInstruction := by
      intro w ht hcross hw hea hm
      refine .more (hcycle 1 w ht hcross) (.last (hcycle 2 _ (congrArg (· + 1) ht) hcross) ?_)
      rw [commit_modify, ← hm, ← (writeBack_ignoresSequencer op _ _).congr hw, ← hea]
      rfl
    exact .more (hcycle 0 s rfl rfl) (hwrites _ rfl rfl rfl rfl rfl)

/-- The cycles from there on in the modes that may cross a page: the dummy read where the class makes it, then the operand
access (R128, R150, R152). -/
theorem rowsEndIn_indexed {f : State → Cycle} {s v : State} {l : Latches} {ea unc : Word} {cross : Bool} (h : s.StandsAt l v)
    (hea : l.ea = ea) (hunc : l.unc = unc) (hcross : l.cross = cross) (hfirst : f s = indexedTail acc s)
    (hrest : ∀ j (w : State), w.latches.t = j + (l.t + 1) → f w = afterDummy acc j w) :
    RowsEndIn f s
      (acc.commit ea (acc.before { ea := ea, unc := some unc, cross := cross, after := v })).endInstruction := by
  obtain ⟨rfl, hv⟩ := h
  subst hea hunc hcross
  rcases acc.dummyCycles_cases s.latches.cross with hd | hd
  · rw [acc.before_of_none hd, ← (commit_ignoresSequencer hk _).congr hv]
    obtain ⟨op, rfl, -⟩ := Access.read_of_dummyCycles hd
    exact .last (hfirst.trans (indexedTail_of_none hd)) rfl
  · rw [acc.before_of_one hd rfl]
    have hs : s.StandsAt s.latches v := ⟨rfl, hv⟩
    refine .step (hfirst.trans (indexedTail_of_one hd)) (hs.dummyRead _) fun w hw => ?_
    have hrow := rowsEndIn_operand (f := f) hk hw fun j u hu hc =>
      (hrest j u hu).trans (afterDummy_of_one (by rw [hc]; exact hd) j)
    exact hrow

end

/-! ## Instructions with an access class, mode by mode (R145 to R152) -/

/-- The latches an instruction's template finds at cycle 2 (R104). -/
def Latches.decoded (op : Byte) : Latches := { Latches.dead with ir := op, t := 2 }

/-- The state an instruction's template finds at cycle 2 (R104, R141). -/
def State.inFlight (op : Byte) (s : State) : State :=
  { s with fsm := .execute, latches := Latches.decoded op, brkFlag := (optab op).kind == .brk }

theorem standsAt_inFlight (op : Byte) (s : State) : (s.inFlight op).StandsAt (Latches.decoded op) s := ⟨rfl, rfl⟩

/-- The operand bytes of a mode fetched, the opcode fetched before (R141). -/
def State.fetchOperand (m : Mode) (s : State) : State :=
  match m.length with
  | 2 => s.fetchByte
  | 3 => s.fetchByte.fetchByte
  | _ => s

/-- The operand a mode assembles from the bytes the fetch reads (R81, R141). -/
def State.operandFetched (m : Mode) (s : State) : Operand :=
  operandOf m (s.busValue s.pc) (s.fetchByte.busValue s.fetchByte.pc)

/-- An index addition on an assembled word, as the templates latch it (R128). -/
theorem resolveIndexed_wordOf (hi lo idx : Byte) (s : State) :
    resolveIndexed (wordOf hi lo) idx s =
      { ea := indexed (wordOf hi lo) idx
        unc := some (uncarried (wordOf hi lo) idx)
        cross := indexCrosses lo idx
        after := s } := by
  rw [resolveIndexed, lowByte_wordOf]

section
variable {k : Kind} {acc : Access} (hk : kindAccess k = some acc)
include hk

theorem rowsEndIn_zp (op : Byte) (s : State) :
    RowsEndIn (cycleAccess acc .zp) (s.inFlight op) (acc.commit (zeroPage (s.busValue s.pc)) s.fetchByte).endInstruction := by
  refine .step rfl ((standsAt_inFlight op s).fetchLo.latch _) fun w hw => ?_
  refine rowsEndIn_operand hk hw fun j u (ht : _ = j + 3) _ => ?_
  simp only [cycleAccess, cycleZp, ht]

/-- Zero page indexed: the index register is read after the operand byte, and no fetch changes it. -/
theorem rowsEndIn_zpi {idx : State → Byte} (hidx : idx = State.x ∨ idx = State.y) (op : Byte) (s : State) :
    RowsEndIn (fun s => cycleZpi acc (idx s) s) (s.inFlight op)
      (acc.commit (zeroPage (s.busValue s.pc + idx s)) (s.fetchByte.dummyRead (zeroPage (s.busValue s.pc)))).endInstruction := by
  refine .step rfl (standsAt_inFlight op s).fetchLo fun w hw => ?_
  have ht : w.latches.t = 3 := hw.t_eq
  have hi : idx w = idx s := by
    rcases hidx with rfl | rfl
    · exact hw.x_eq
    · exact hw.y_eq
  have hlo : w.latches.lo = s.busValue s.pc := congrArg Latches.lo hw.latches
  refine .step (u := (w.dummyRead (zeroPage (s.busValue s.pc))).latchZeroPageIndexed (idx s)) ?_
    ((hw.dummyRead _).latch _) fun u hu => ?_
  · simp only [cycleZpi, ht, hi, hlo]
  refine rowsEndIn_operand hk hu fun j u (ht : _ = j + 4) _ => ?_
  simp only [cycleZpi, ht]

/-- The operand word of the three-byte modes, latched on cycle 3 as the mode has it. -/
theorem rowsEndIn_abs (op : Byte) (s : State) :
    RowsEndIn (cycleAccess acc .abs) (s.inFlight op)
      (acc.commit (wordOf (s.fetchByte.busValue s.fetchByte.pc) (s.busValue s.pc)) s.fetchByte.fetchByte).endInstruction := by
  refine .step rfl (standsAt_inFlight op s).fetchLo fun w hw => ?_
  have ht : w.latches.t = 3 := hw.t_eq
  refine .step (u := w.fetchHi.latchEa) ?_ (hw.fetchHi.latch _) fun u hu => ?_
  · simp only [cycleAccess, cycleAbs, ht]
  refine rowsEndIn_operand hk hu fun j u (ht : _ = j + 4) _ => ?_
  simp only [cycleAccess, cycleAbs, ht]

theorem rowsEndIn_abi {idx : State → Byte} (hidx : idx = State.x ∨ idx = State.y) (op : Byte) (s : State) :
    RowsEndIn (fun s => cycleAbi acc (idx s) s) (s.inFlight op)
      (acc.commit (indexed (wordOf (s.fetchByte.busValue s.fetchByte.pc) (s.busValue s.pc)) (idx s))
        (acc.before
          (resolveIndexed (wordOf (s.fetchByte.busValue s.fetchByte.pc) (s.busValue s.pc)) (idx s)
            s.fetchByte.fetchByte))).endInstruction := by
  refine .step rfl (standsAt_inFlight op s).fetchLo fun w hw => ?_
  have ht : w.latches.t = 3 := hw.t_eq
  have hi : idx w = idx s := by
    rcases hidx with rfl | rfl
    · exact hw.x_eq
    · exact hw.y_eq
  refine .step (u := w.fetchHi.latchIndexed (idx s)) ?_ (hw.fetchHi.latch _) fun u hu => ?_
  · simp only [cycleAbi, ht, hi]
  have ht : u.latches.t = 4 := hu.t_eq
  rw [resolveIndexed_wordOf]
  refine rowsEndIn_indexed hk hu rfl rfl rfl ?_ fun j u (ht : _ = j + 5) => ?_
  · simp only [cycleAbi, ht]
  · simp only [cycleAbi, ht]

theorem rowsEndIn_izx (op : Byte) (s : State) :
    RowsEndIn (cycleAccess acc .izx) (s.inFlight op)
      (acc.commit (resolveIndexedIndirect (s.busValue s.pc) s.fetchByte).ea
        (resolveIndexedIndirect (s.busValue s.pc) s.fetchByte).after).endInstruction := by
  refine .step rfl (standsAt_inFlight op s).fetchZp fun w hw => ?_
  have ht : w.latches.t = 3 := hw.t_eq
  have hzp : w.latches.zp = s.busValue s.pc := congrArg Latches.zp hw.latches
  refine .step (u := w.dummyRead (zeroPage (s.busValue s.pc))) ?_ (hw.dummyRead _) fun w hw => ?_
  · simp only [cycleAccess, cycleIzx, ht, hzp]
  have ht : w.latches.t = 4 := hw.t_eq
  have hzp : w.latches.zp = s.busValue s.pc := congrArg Latches.zp hw.latches
  have hx : w.x = s.x := hw.x_eq
  refine .step ?_ (hw.readLo (zeroPage (s.busValue s.pc + s.x))) fun w hw => ?_
  · simp only [cycleAccess, cycleIzx, ht, hzp, hx]
  have ht : w.latches.t = 5 := hw.t_eq
  have hzp : w.latches.zp = s.busValue s.pc := congrArg Latches.zp hw.latches
  have hx : w.x = s.x := hw.x_eq
  refine .step (u := State.latchEa _) ?_ ((hw.readHi (zeroPage (s.busValue s.pc + s.x + 1))).latch _) fun w hw => ?_
  · simp only [cycleAccess, cycleIzx, ht, hzp, hx]
  refine rowsEndIn_operand hk hw fun j u (ht : _ = j + 6) _ => ?_
  simp only [cycleAccess, cycleIzx, ht]

theorem rowsEndIn_izy (op : Byte) (s : State) :
    RowsEndIn (cycleAccess acc .izy) (s.inFlight op)
      (acc.commit (resolveIndirectIndexed (s.busValue s.pc) s.fetchByte).ea
        (acc.before (resolveIndirectIndexed (s.busValue s.pc) s.fetchByte))).endInstruction := by
  refine .step rfl (standsAt_inFlight op s).fetchZp fun w hw => ?_
  have ht : w.latches.t = 3 := hw.t_eq
  have hzp : w.latches.zp = s.busValue s.pc := congrArg Latches.zp hw.latches
  refine .step ?_ (hw.readLo (zeroPage (s.busValue s.pc))) fun w hw => ?_
  · simp only [cycleAccess, cycleIzy, ht, hzp]
  have ht : w.latches.t = 4 := hw.t_eq
  have hzp : w.latches.zp = s.busValue s.pc := congrArg Latches.zp hw.latches
  have hy : w.y = s.y := hw.y_eq
  refine .step (u := State.latchIndexed _ s.y) ?_ ((hw.readHi (zeroPage (s.busValue s.pc + 1))).latch _) fun w hw => ?_
  · simp only [cycleAccess, cycleIzy, ht, hzp, hy]
  have ht : w.latches.t = 5 := hw.t_eq
  rw [resolveIndirectIndexed, State.pagedPointer, resolveIndexed_wordOf]
  refine rowsEndIn_indexed hk hw rfl rfl rfl ?_ fun j u (ht : _ = j + 6) => ?_
  · simp only [cycleAccess, cycleIzy, ht]
  · simp only [cycleAccess, cycleIzy, ht]

/-- The template of a mode with a memory operand ends in the operand access at the address the resolver gives. -/
theorem rowsEndIn_memory {m : Mode} (op : Byte) {s : State} {r : Resolution}
    (hr : resolve (s.operandFetched m) (s.fetchOperand m) = some r) :
    RowsEndIn (cycleAccess acc m) (s.inFlight op) (acc.commit r.ea (acc.before r)).endInstruction := by
  cases m with
  | imp | acc | imm | ind | rel => cases hr
  | zp =>
    cases hr
    rw [acc.before_of_unc rfl]
    exact rowsEndIn_zp hk op s
  | zpx =>
    cases hr
    rw [acc.before_of_unc rfl]
    exact rowsEndIn_zpi hk (.inl rfl) op s
  | zpy =>
    cases hr
    rw [acc.before_of_unc rfl]
    exact rowsEndIn_zpi hk (.inr rfl) op s
  | abs =>
    cases hr
    rw [acc.before_of_unc rfl]
    exact rowsEndIn_abs hk op s
  | abx =>
    cases hr
    exact rowsEndIn_abi hk (.inl rfl) op s
  | aby =>
    cases hr
    exact rowsEndIn_abi hk (.inr rfl) op s
  | izx =>
    cases hr
    rw [acc.before_of_unc rfl]
    exact rowsEndIn_izx hk op s
  | izy =>
    cases hr
    exact rowsEndIn_izy hk op s

end

end Sys2Proof.Machine
end

section
/-! SUPPORT. The two levels agree (R3, R103, R105): the templates of their own end in the state `exec` answers, so that every
instruction does, and a run of cycles from a fetch boundary is a step. -/

namespace Sys2Proof.Machine

/-! ## The templates of their own (R145, R153 to R161) -/

section
variable (op : Byte) (s : State)

theorem rowsEndIn_imp {g : State → State} (hg : IgnoresSequencer g) :
    RowsEndIn (cycleImp g) (s.inFlight op) (g s.internalCycle).endInstruction :=
  .last rfl (hg.congr rfl)

/-- A taken branch ends with PC at its target, after one cycle, or two on a page crossing (R153). -/
theorem rowsEndIn_taken {cond : Flags → Bool} {w v : State} {l : Latches} (off : Byte) (hw : w.StandsAt l v)
    (ht : l.t = 3) (htaken : l.taken = true) (hea : l.ea = branchTarget v.pc off)
    (hcross : l.cross = branchCrosses v.pc off) :
    ∃ t, branchClass true off v = .next t ∧ RowsEndIn (cycleRel cond) w t := by
  obtain ⟨rfl, hv⟩ := hw
  have hw : w.StandsAt w.latches v := ⟨rfl, hv⟩
  cases hc : branchCrosses v.pc off <;> rw [hc] at hcross
  · refine ⟨_, by rw [branchClass, hc]; rfl, .last ?_ (hw.internalCycle.setPc hea).same⟩
    simp only [cycleRel, ht, htaken, hcross]
  · refine ⟨_, by rw [branchClass, hc]; rfl, .step ?_ hw.internalCycle fun u hu => ?_⟩
    · simp only [cycleRel, ht, htaken, hcross]
    have ht : u.latches.t = 4 := hu.t_eq.trans (congrArg (· + 1) ht)
    have htaken : u.latches.taken = true := (congrArg Latches.taken hu.latches).trans htaken
    have hcross : u.latches.cross = true := (congrArg Latches.cross hu.latches).trans hcross
    have hea := (congrArg Latches.ea hu.latches).trans hea
    refine .last ?_ (hu.internalCycle.setPc hea).same
    simp only [cycleRel, ht, htaken, hcross]

/-- A branch fetches its offset, and that is all when it is not taken (R153). -/
theorem rowsEndIn_rel (cond : Flags → Bool) :
    ∃ t, branchClass (cond s.flags) (s.busValue s.pc) s.fetchByte = .next t ∧
      RowsEndIn (cycleRel cond) (s.inFlight op) t := by
  have hfirst : cycleRel cond (s.inFlight op) =
      if cond s.flags then .more ((s.inFlight op).fetchOffset true) else .last ((s.inFlight op).fetchOffset false) := rfl
  have hfetch (b : Bool) := (standsAt_inFlight op s).fetchLo.latch fun l =>
    { l with taken := b, ea := branchTarget (s.pc + 1) l.lo, cross := branchCrosses (s.pc + 1) l.lo }
  cases hc : cond s.flags <;> rw [hc] at hfirst
  · exact ⟨_, rfl, .last hfirst (hfetch false).same⟩
  · obtain ⟨t, hexec, hrows⟩ :=
      rowsEndIn_taken (cond := cond) (s.busValue s.pc) (hfetch true).nextCycle rfl rfl rfl rfl
    exact ⟨t, hexec, .more hfirst hrows⟩

theorem rowsEndIn_jmpAbs :
    RowsEndIn cycleJmpAbs (s.inFlight op)
      (State.endInstruction
        { s.fetchByte.fetchByte with pc := wordOf (s.fetchByte.busValue s.fetchByte.pc) (s.busValue s.pc) }) := by
  refine .step rfl (standsAt_inFlight op s).fetchLo fun w hw => ?_
  have ht : w.latches.t = 3 := hw.t_eq
  have hlo : w.latches.lo = s.busValue s.pc := congrArg Latches.lo hw.latches
  refine .last ?_ (hw.readAtPc.setPc (congrArg₂ wordOf hw.fetched_eq hlo)).same
  simp only [cycleJmpAbs, ht]

theorem rowsEndIn_jmpInd {ptr : Word} (hptr : wordOf (s.fetchByte.busValue s.fetchByte.pc) (s.busValue s.pc) = ptr) :
    RowsEndIn cycleJmpInd (s.inFlight op)
      (State.endInstruction
        { s.fetchByte.fetchByte.readIndirect ptr with pc := s.fetchByte.fetchByte.indirectTarget ptr }) := by
  refine .step rfl (standsAt_inFlight op s).fetchLo fun w hw => ?_
  have ht : w.latches.t = 3 := hw.t_eq
  refine .step ?_ hw.fetchHi fun w hw => ?_
  · simp only [cycleJmpInd, ht]
  have ht : w.latches.t = 4 := hw.t_eq
  have hp : wordOf w.latches.hi w.latches.lo = ptr :=
    (congrArg (fun l : Latches => wordOf l.hi l.lo) hw.latches).trans hptr
  refine .step ?_ ((hw.readOperand ptr).latch fun l => { l with tl := w.busValue ptr }) fun u hu => ?_
  · simp only [cycleJmpInd, ht, hp]
  have ht : u.latches.t = 5 := hu.t_eq
  have hp : wordOf u.latches.hi u.latches.lo = ptr :=
    (congrArg (fun l : Latches => wordOf l.hi l.lo) hu.latches).trans hptr
  have htl : u.latches.tl = s.fetchByte.fetchByte.busValue ptr :=
    (congrArg Latches.tl hu.latches).trans (hw.busValue_eq ptr)
  refine .last ?_ ((hu.readOperand (samePageNext ptr)).setPc (congrArg₂ wordOf (hu.busValue_eq _) htl)).same
  simp only [cycleJmpInd, ht, hp]

theorem rowsEndIn_jsr {target : Word} (htarget : lowByte target = s.busValue s.pc) :
    ∃ t, execJsr target s.fetchByte = .next t ∧ RowsEndIn cycleJsr (s.inFlight op) t := by
  refine ⟨_, rfl, .step rfl (standsAt_inFlight op s).fetchLo fun w hw => ?_⟩
  have ht : w.latches.t = 3 := hw.t_eq
  refine .step ?_ hw.internalCycle fun w hw => ?_
  · simp only [cycleJsr, ht]
  have ht : w.latches.t = 4 := hw.t_eq
  refine .step ?_ hw.pushPcHigh fun w hw => ?_
  · simp only [cycleJsr, ht]
  have ht : w.latches.t = 5 := hw.t_eq
  refine .step ?_ hw.pushPcLow fun w hw => ?_
  · simp only [cycleJsr, ht]
  have ht : w.latches.t = 6 := hw.t_eq
  have hlo : w.latches.lo = lowByte target := (congrArg Latches.lo hw.latches).trans htarget.symm
  refine .last ?_ (hw.readAtPc.setPc (congrArg₂ wordOf hw.fetched_eq hlo)).same
  simp only [cycleJsr, ht]

theorem rowsEndIn_rts :
    ∃ t, execRts s = .next t ∧ RowsEndIn cycleRts (s.inFlight op) t := by
  refine ⟨_, rfl, .step rfl (standsAt_inFlight op s).internalCycle fun w hw => ?_⟩
  have ht : w.latches.t = 3 := hw.t_eq
  refine .step ?_ hw.internalCycle.popSp fun w hw => ?_
  · simp only [cycleRts, ht]
  have ht : w.latches.t = 4 := hw.t_eq
  refine .step ?_ hw.pullLo fun w hw => ?_
  · simp only [cycleRts, ht]
  have ht : w.latches.t = 5 := hw.t_eq
  have hpc := congrArg₂ wordOf hw.stackTop_eq (congrArg Latches.lo hw.latches)
  refine .step ?_ ((hw.readStack.setPc hpc).latch fun l => { l with hi := w.stackTop }) fun w hw => ?_
  · simp only [cycleRts, ht]
  have ht : w.latches.t = 6 := hw.t_eq
  refine .last ?_ hw.internalCycle.advancePc.same
  simp only [cycleRts, ht]

theorem rowsEndIn_rti :
    RowsEndIn cycleRti (s.inFlight op) s.internalCycle.internalCycle.returnFromInterrupt.endInstruction := by
  refine .step rfl (standsAt_inFlight op s).internalCycle fun w hw => ?_
  have ht : w.latches.t = 3 := hw.t_eq
  refine .step ?_ hw.internalCycle.popSp fun w hw => ?_
  · simp only [cycleRti, ht]
  have ht : w.latches.t = 4 := hw.t_eq
  refine .step ?_ hw.pullM fun w hw => ?_
  · simp only [cycleRti, ht]
  have ht : w.latches.t = 5 := hw.t_eq
  refine .step ?_ hw.pullLo fun w hw => ?_
  · simp only [cycleRti, ht]
  have ht : w.latches.t = 6 := hw.t_eq
  have hpc := congrArg₂ wordOf hw.stackTop_eq (congrArg Latches.lo hw.latches)
  have hflags := congrArg (fun l : Latches => pPull l.m) hw.latches
  refine .last ?_ ((hw.readStack.setPc hpc).setFlags hflags).same
  simp only [cycleRti, ht]

/-- The three pushes and the vector reads of the entry, BRK's padding byte before them (R161). -/
theorem rowsEndIn_brk {op : Byte} (hop : (optab op).kind = .brk) (s : State) :
    RowsEndIn cycleBrk (s.inFlight op) (s.raiseBrkFlag.internalCycle.advancePc.enterVector irqVector).endInstruction := by
  rw [State.inFlight, hop]
  obtain ⟨a, x, y, sp, pc, flags, irq, nmi, brk, fsm, l, maps, mem, diag, sig, trace, cfg⟩ := s
  exact .more rfl (.more rfl (.more rfl (.more rfl (.more rfl (.last rfl rfl)))))

theorem rowsEndIn_push {g : State → Byte} (hg : g (s.inFlight op).internalCycle.nextCycle = g s) :
    RowsEndIn (cyclePush g) (s.inFlight op) (s.internalCycle.push (g s)).endInstruction := by
  refine .more rfl (.last rfl ?_)
  rw [hg]
  rfl

theorem rowsEndIn_pull {g : Byte → State → State} (hg : ∀ b, IgnoresSequencer (g b)) :
    ∃ t, pullClass g s = .next t ∧ RowsEndIn (cyclePull g) (s.inFlight op) t := by
  refine ⟨_, rfl, .step rfl (standsAt_inFlight op s).internalCycle fun w hw => ?_⟩
  have ht : w.latches.t = 3 := hw.t_eq
  refine .step ?_ hw.internalCycle.popSp fun w hw => ?_
  · simp only [cyclePull, ht]
  have ht : w.latches.t = 4 := hw.t_eq
  refine .last ?_ ((hg _).congr hw.readStack.same)
  simp only [cyclePull, ht, hw.stackTop_eq]

end

/-! ## Every instruction -/

theorem fetchFor_eq_fetchOperand {i : Instr} (s : State) (hill : i.kind ≠ .ill) (hjsr : i.kind ≠ .jsr) :
    s.fetchFor i = s.afterOpcode.fetchOperand i.mode := by
  rcases fetchFor_cases s hill hjsr with ⟨hlen, h⟩ | ⟨hlen, h⟩ | ⟨hlen, h⟩ <;> rw [h, State.fetchOperand, hlen] <;> rfl

theorem instrOperand?_assemble {k : Kind} {acc : Access} (hk : kindAccess k = some acc) (m : Mode) (b0 b1 b2 : Byte) :
    instrOperand? (assemble k m b0 b1 b2) = some (operandOf m b1 b2) := by
  cases k <;> cases hk <;> rfl

/-- An instruction with an access class, immediate and Accumulator forms included (R144 to R152). -/
theorem exec_rowsEndIn_access {i : Instr} {m : Mode} {acc : Access} (op : Byte) {s : State} (hi : i.WellFormed)
    (ho : instrOperand? i = some (s.operandFetched m)) (hk : kindAccess i.kind = some acc)
    (h2 : 2 ≤ accessCycles acc m false) (hm : i.kind.modes.contains m = true) :
    ∃ t, exec i (s.fetchOperand m) = .next t ∧ RowsEndIn (cycleAccess acc m) (s.inFlight op) t := by
  cases m with
  | imp | ind | rel => exact absurd h2 (Nat.not_succ_le_zero 1)
  | acc =>
    cases acc with
    | modify g => exact ⟨_, (exec_of_modify ho hk s).trans (modifyClass_acc g s hm), .last rfl rfl⟩
    | read _ | write _ => exact absurd h2 (Nat.not_succ_le_zero 1)
  | imm =>
    cases acc with
    | read g =>
      exact ⟨_, (exec_of_read ho hk s.fetchByte).trans (if_pos hm), .last rfl ((readOp_ignoresSequencer hk _).congr rfl)⟩
    | write _ | modify _ => exact absurd h2 (Nat.not_succ_le_zero 1)
  | zp | zpx | zpy | abs | abx | aby | izx | izy =>
    exact ⟨_, exec_of_resolve hi ho hk rfl, rowsEndIn_memory hk op rfl⟩

theorem exec_rowsEndIn_branch {k : Kind} {cond : Flags → Bool} (hk : kindCondition k = some cond) (m : Mode) (op : Byte)
    (s : State) :
    ∃ t, exec (assemble k m op s.operandByte1 s.operandByte2)
        (s.fetchFor (assemble k m op s.operandByte1 s.operandByte2)) = .next t ∧
      RowsEndIn (cycleOther k m) (s.afterOpcode.inFlight op) t := by
  have hrel := rowsEndIn_rel op s.afterOpcode cond
  cases k <;> cases hk <;> exact hrel

/-- An instruction with a template of its own (R145, R153 to R161). -/
theorem exec_rowsEndIn_other {op : Byte} {k : Kind} {m : Mode} (hop : (optab op).kind = k) (hk : kindAccess k = none)
    (hill : k ≠ .ill) (hm : k.modes.contains m = true) (s : State) :
    ∃ t, exec (assemble k m op s.operandByte1 s.operandByte2)
        (s.fetchFor (assemble k m op s.operandByte1 s.operandByte2)) = .next t ∧
      RowsEndIn (cycleOther k m) (s.afterOpcode.inFlight op) t := by
  cases k with
  | jmp =>
    obtain rfl | rfl : m = .abs ∨ m = .ind := by simpa [Kind.modes] using hm
    · exact ⟨_, rfl, rowsEndIn_jmpAbs op s.afterOpcode⟩
    · exact ⟨_, rfl, rowsEndIn_jmpInd op s.afterOpcode rfl⟩
  | jsr => exact rowsEndIn_jsr op s.afterOpcode (lowByte_wordOf _ _)
  | rts => exact rowsEndIn_rts op s.afterOpcode
  | rti => exact ⟨_, rfl, rowsEndIn_rti op s.afterOpcode⟩
  | brk => exact ⟨_, rfl, rowsEndIn_brk hop s.afterOpcode⟩
  | pha => exact ⟨_, rfl, rowsEndIn_push op s.afterOpcode (g := State.a) rfl⟩
  | php => exact ⟨_, rfl, rowsEndIn_push op s.afterOpcode (g := fun s => pPush s.flags true) rfl⟩
  | pla => exact rowsEndIn_pull op s.afterOpcode (g := State.loadA) fun _ _ => rfl
  | plp => exact rowsEndIn_pull op s.afterOpcode (g := State.pullFlags) fun _ _ => rfl
  | tax | tay | txa | tya | tsx | txs | inx | iny | dex | dey | clc | sec | cli | sei | clv | cld | sed | nop =>
    exact ⟨_, rfl, rowsEndIn_imp op s.afterOpcode fun _ => rfl⟩
  | bpl | bmi | bvc | bvs | bcc | bcs | bne | beq =>
    exact exec_rowsEndIn_branch rfl m op s
  | ill => exact absurd rfl hill
  | _ => cases hk

/-- What a documented instruction does is what the rows of its template do (R103). -/
theorem exec_rowsEndIn {s : State} (hill : (optab s.opcodeByte).kind ≠ .ill) :
    ∃ t, exec s.nextInstr (s.fetchFor s.nextInstr) = .next t ∧
      RowsEndIn (executeCycle (optab s.opcodeByte).kind (optab s.opcodeByte).mode)
        (s.afterOpcode.inFlight s.opcodeByte) t := by
  have hm := optab_mode_mem s.opcodeByte
  have hkind : s.nextInstr.kind = (optab s.opcodeByte).kind := decodeBytes_kind ..
  have hmode : s.nextInstr.mode = (optab s.opcodeByte).mode := decodeBytes_mode ..
  cases hk : kindAccess (optab s.opcodeByte).kind with
  | none =>
    have hf : executeCycle (optab s.opcodeByte).kind (optab s.opcodeByte).mode = cycleOther _ _ :=
      funext (executeCycle_other hk _)
    rw [hf]
    exact exec_rowsEndIn_other rfl hk hill hm s
  | some acc =>
    have hf : executeCycle (optab s.opcodeByte).kind (optab s.opcodeByte).mode = cycleAccess acc _ :=
      funext (executeCycle_access hk _)
    have h2 : 2 ≤ accessCycles acc (optab s.opcodeByte).mode false := by
      have hcycles := (optab_cycles_bounds s.opcodeByte false false hill).1
      rwa [optab_cycles _ _ _ hill, templateCycles_access hk] at hcycles
    have hjsr : s.nextInstr.kind ≠ .jsr := by
      rw [hkind]
      intro h
      rw [h] at hk
      cases hk
    rw [hf, fetchFor_eq_fetchOperand s (by rwa [hkind]) hjsr, hmode]
    rw [← hkind] at hk hm
    exact exec_rowsEndIn_access _ (decodeBytes_wellFormed ..) (instrOperand?_assemble (hkind ▸ hk) _ _ _ _) hk h2 hm

/-- The rows of an instruction end it at a fetch boundary (R103). -/
theorem RowsEndIn.fsm {f : State → Cycle} {s t : State} (h : RowsEndIn f s t) : t.fsm = .fetch := by
  induction h with
  | last _ ht => rw [← ht]; rfl
  | more _ _ ih => exact ih

/-- Nothing follows the trap or the refusal (R283, R296). -/
theorem afterInstruction_illegalOpcode (opcode : Byte) (s : State) :
    afterInstruction (illegalOpcode opcode s) = illegalOpcode opcode s := by
  cases hp : s.cfg.illegalPolicy
  · rw [illegalOpcode_trap opcode hp, afterInstruction_raiseIllegalOpcode]
  · rw [illegalOpcode_emulate opcode hp, afterInstruction]

/-- An undefined byte ends the run of cycles with its fetch cycle, by the trap or the refusal (R104, R296). -/
theorem executeInstruction_undefined {s : State} (hf : s.fsm = .fetch) (hill : (optab s.opcodeByte).kind = .ill) :
    executeInstruction s = illegalOpcode s.opcodeByte s.fetchOpcode := by
  have hcycle : stepCycle s = illegalOpcode s.opcodeByte s.fetchOpcode := by
    simp only [stepCycle, hf]
    exact if_pos hill
  simp only [executeInstruction, hf, runCycles, hcycle]
  cases hp : s.cfg.illegalPolicy
  · rw [illegalOpcode_trap _ (s := s.fetchOpcode) hp]
    rfl
  · rw [illegalOpcode_emulate _ (s := s.fetchOpcode) hp]

/-- Settles O9: an undefined byte is its fetch cycle at both levels; the rows of any other instruction's template end it where
`exec` does, and the run of cycles goes through them and the interrupt entry. -/
theorem stepAgreesWithTheCycleMachine : Obligations.StepAgreesWithTheCycleMachine := by
  intro s hf
  by_cases hill : (optab s.opcodeByte).kind = .ill
  · rw [step_undefined hf ((optab_ill_iff _).1 hill), executeInstruction_undefined hf hill, afterInstruction_illegalOpcode]
  · obtain ⟨t, hexec, hrows⟩ := exec_rowsEndIn hill
    have hrow : hasRow (optab s.opcodeByte) (Latches.decoded s.opcodeByte) = true := hasRow_two hill rfl
    have hcycles : executeInstruction s = runCycles 13 (s.afterOpcode.inFlight s.opcodeByte) :=
      executeInstruction_fetch hf hill
    rw [step_fetch hf, hexec, hcycles, hrows.runCycles rfl rfl hrow le_rfl, afterInstruction, hrows.fsm]
    rfl

end Sys2Proof.Machine
end

section
/-! SUPPORT. Effective addresses without a pointer read (R120, R124 to R128, R132), and JMP (R129, R240): the branch target and the
byte after a pointer as numbers, and the pointer reads of the indirect form. -/

namespace Sys2Proof.Machine

/-! ## Effective addresses (R124 to R128, R132) -/

/-- The target of a branch is the signed sum, in the space (R132). -/
theorem branchTarget_toNat (pcn : Word) (off : Byte) :
    ((branchTarget pcn off).toNat : Int) = ((pcn.toNat : Int) + off.toInt) % 65536 := by
  have hoff : ((signExtend off).toNat : Int) = off.toInt % 65536 := by
    rw [signExtend, BitVec.signExtend, BitVec.toNat_ofInt]
    omega
  rw [branchTarget, BitVec.toNat_add]
  omega

/-- The page-cross report of a branch compares the pages of the target and of the next instruction (R132). -/
theorem branchCrosses_iff (pcn : Word) (off : Byte) :
    branchCrosses pcn off = true ↔ (branchTarget pcn off).toNat / 256 ≠ pcn.toNat / 256 := by
  rw [branchCrosses, bne_iff_ne, Ne, ← BitVec.toNat_inj, highByte_toNat, highByte_toNat]

/-- A page 0 address is its byte, zero-extended (R124). -/
theorem zeroPage_eq_zeroExtend (b : Byte) : zeroPage b = b.zeroExtend 16 :=
  (zeroPage_eq_ofNat b).trans (BitVec.ofNat_toNat 16 b)

/-- The carry of the low byte is what separates the indexed address from the un-carried one (R128). -/
theorem indexed_eq_uncarried_add (base : Word) (idx : Byte) :
    indexed base idx = uncarried base idx + (if indexCrosses (lowByte base) idx then 0x0100 else 0) := by
  have hbase := base.isLt
  have hidx := idx.isLt
  simp only [indexed_eq_ofNat, uncarried_eq_ofNat, indexCrosses_iff]
  split
  next hcarry => bv_omega
  next hnoCarry => bv_omega

/-- Settles O32: the sums as numbers, mode by mode. -/
theorem effectiveAddresses : Obligations.EffectiveAddresses := by
  intro s b w
  exact ⟨branchTarget_toNat w b, branchCrosses_iff w b,
    congrArg some (zeroPage_eq_zeroExtend b), congrArg some (zeroPage_add b s.x), congrArg some (zeroPage_add b s.y), rfl,
    congrArg some (indexed_eq_ofNat w s.x), congrArg some (indexed_eq_ofNat w s.y),
    decide_eq_true_iff, decide_eq_true_iff, indexCrosses_iff w s.x, indexCrosses_iff w s.y,
    indexed_eq_uncarried_add w s.x, indexed_eq_uncarried_add w s.y⟩

/-! ## JMP (R129, R155, R240) -/

/-- The byte after a pointer's, in the same page (R129): the un-carried sum with 1. -/
theorem samePageNext_eq_ofNat (pointer : Word) :
    samePageNext pointer = BitVec.ofNat 16 (pointer.toNat / 256 * 256 + (pointer.toNat + 1) % 256) := by
  rw [Nat.mul_comm, ← Nat.mod_add_mod]
  exact uncarried_eq_ofNat pointer 1

/-- The pointer reads of JMP indirect: low byte first, and the high byte from the same page (R129, R155). -/
theorem readIndirect_reads (s : State) (pointer : Word) :
    ∃ lo hi, s.indirectTarget pointer = wordOf hi lo ∧
      (s.readIndirect pointer).trace = [.readOperand (samePageNext pointer) hi, .readOperand pointer lo] ++ s.trace ∧
      s.ReadsAs s.mem pointer lo ∧ s.ReadsAs s.mem (samePageNext pointer) hi :=
  ⟨_, _, rfl, rfl, readsAs_busValue s _, (busOnly_readOperand s pointer).readsAs _⟩

/-- JMP indirect leaves the state after its pointer reads, at the pointer (R129, R240). -/
theorem exec_jmp_ind (s : State) (pointer : Word) :
    exec (.jmp (.ind pointer)) s =
      .next { s.readIndirect pointer with pc := s.indirectTarget pointer }.endInstruction := rfl

/-- Settles O47: the absolute form loads PC and does nothing else; the indirect form does so after its pointer reads. -/
theorem jumpsComplete : Obligations.JumpsComplete := by
  intro s w
  constructor
  · exact completes_of (u := { s with pc := w }) rfl ((Cycles.refl s).of_eq rfl rfl rfl rfl rfl rfl rfl) rfl rfl
  · obtain ⟨lo, hi, htarget, htrace, hlo, hhi⟩ := readIndirect_reads s w
    rw [samePageNext_eq_ofNat] at htrace hhi
    have hcycles := (busOnly_readIndirect s w).cycles.of_eq (u := { s.readIndirect w with pc := s.indirectTarget w })
      rfl rfl rfl rfl rfl rfl rfl
    refine ⟨lo, hi, _, exec_jmp_ind s w, ?_, hcycles.sameSystem, fun _ => rfl, htrace, hlo, hhi⟩
    exact congrArg (fun pc => { s.registers with pc := pc }) htarget

end Sys2Proof.Machine
end

section
/-! SUPPORT. Calls, entries and returns through the stack (R156 to R158, R161, R162, R288): what two pushes leave, what two pulls
read, and the internal cycles and the flag updates that the templates have around the shared entry and return. -/

namespace Sys2Proof.Machine

/-! ## JSR and RTS (R156, R157, R241, R242) -/

/-- The two pushes of a call (R156), as stores. -/
theorem two_pushes {s : State} (hw : s.mem.wf = true) (a b : Byte) :
    let t := (s.push a).push b
    holds s t (stackAddress s.sp) a ∧ holds s t (stackAddress (s.sp - 1)) b ∧
      ∀ x : Nat, x ≠ (stackAddress s.sp).toNat → x ≠ (stackAddress (s.sp - 1)).toNat → t.mem.read x = s.mem.read x := by
  have hne : s.sp ≠ s.sp - 1 := by bv_omega
  obtain ⟨hfirst, hrest⟩ := storesByte_writeOperand hw (stackAddress s.sp) a
  have hw' : (s.push a).mem.wf = true := State.memAfterWrite_wf hw ..
  obtain ⟨hsecond, hrest'⟩ := storesByte_writeOperand hw' (stackAddress (s.sp - 1)) b
  refine ⟨?_, ?_, fun x hx hx' => (hrest' x hx').trans (hrest x hx)⟩
  · exact holds_of_read_eq (t := s.push a) hfirst (hrest' _ (stackAddress_ne hne))
  · exact holds_of_before_eq (t := s.push a) hsecond rfl (hrest _ (stackAddress_ne hne.symm))

/-- Settles O48: the third byte is read from what the two pushes leave. -/
theorem jsrCompletes : Obligations.JsrCompletes := by
  intro s target hw
  obtain ⟨hhigh, hlow, hrest⟩ := two_pushes (s := s.internalCycle) hw (highByte s.pc) (lowByte s.pc)
  have hsp : s.sp - 1 - 1 = s.sp - 2 := by bv_omega
  have hcycles := (cycles_jsrPush s).trans (cycles_readOperand s.jsrPush s.pc)
  refine ⟨s.jsrPush.busValue s.pc, _, rfl, ?_, Cycles.sameSystem (hcycles.of_eq rfl rfl rfl rfl rfl rfl rfl), rfl,
    (readsAs_busValue s.jsrPush s.pc).of_eq rfl rfl rfl, hhigh, hlow, hrest⟩
  rw [← hsp]
  rfl

/-- The two pulls of a return (R157): low byte of the address before the high byte. -/
theorem two_pulls (s : State) :
    ∃ lo hi,
      s.popSp.stackTop = lo ∧ s.popSp.readStack.popSp.stackTop = hi ∧
      s.popSp.readStack.popSp.readStack.trace =
        [.readOperand (stackAddress (s.sp + 2)) hi, .readOperand (stackAddress (s.sp + 1)) lo] ++ s.trace ∧
      s.ReadsAs s.mem (stackAddress (s.sp + 1)) lo ∧ s.ReadsAs s.mem (stackAddress (s.sp + 2)) hi := by
  have hsp : s.sp + 1 + 1 = s.sp + 2 := by bv_omega
  rw [← hsp]
  exact ⟨_, _, rfl, rfl, rfl, readsAs_busValue s.popSp _, (readsAs_busValue s.popSp.readStack.popSp _).of_eq rfl rfl rfl⟩

theorem cycles_pull (s : State) : Cycles s s.popSp.readStack := (cycles_popSp s).trans (cycles_readStack _)

/-- RTS adds 1 to the word its two pulls give (R157, R242). -/
theorem exec_rts {s : State} {lo hi : Byte} (hlo : s.internalCycle.internalCycle.popSp.stackTop = lo)
    (hhi : s.internalCycle.internalCycle.popSp.readStack.popSp.stackTop = hi) :
    exec .rts s = .next (State.endInstruction
      { s.internalCycle.internalCycle.popSp.readStack.popSp.readStack.internalCycle with pc := wordOf hi lo + 1 }) := by
  subst hlo hhi
  rfl

/-- Settles O49: two pulls between internal cycles. -/
theorem rtsCompletes : Obligations.RtsCompletes := by
  intro s
  obtain ⟨lo, hi, hlo, hhi, htrace, hreadsLo, hreadsHi⟩ := two_pulls s.internalCycle.internalCycle
  have hcycles : Cycles s s.internalCycle.internalCycle.popSp.readStack.popSp.readStack.internalCycle :=
    ((((cycles_internalCycle s).trans (cycles_internalCycle _)).trans (cycles_pull _)).trans (cycles_pull _)).trans
      (cycles_internalCycle _)
  refine ⟨lo, hi, _, exec_rts hlo hhi, ?_, Cycles.sameSystem (hcycles.of_eq rfl rfl rfl rfl rfl rfl rfl), fun x => ?_,
    congrArg (MicroStep.internalCycle :: ·) htrace, hreadsLo, hreadsHi⟩
  · simp [State.registers, BitVec.add_assoc]
  · simp

/-! ## RTI (R158, R269) -/

theorem exec_rti (s : State) :
    exec .rti s = .next s.internalCycle.internalCycle.returnFromInterrupt.endInstruction := rfl

/-- Settles O55: the three pulls of the shared return after two internal cycles, the flags bit by bit. -/
theorem rtiCompletes : Obligations.RtiCompletes := by
  intro s
  obtain ⟨m, lo, hi, hreg, hmem, htrace, hm, hlo, hhi⟩ := returnFromInterrupt_pulls s.internalCycle.internalCycle
  have hcycles := ((cycles_internalCycle s).trans (cycles_internalCycle _)).trans (cycles_returnFromInterrupt _)
  refine ⟨m, lo, hi, _, exec_rti s, hcycles.sameSystem, fun x => ?_, hreg, htrace, hm, hlo, hhi⟩
  simp [hmem]

/-! ## BRK and the entry of NMI and IRQ (R161, R162, R288) -/

/-- Settles O54: the shared entry with `brk_flag` set, from the address after the byte that one internal cycle skips. -/
theorem brkCompletes : Obligations.BrkCompletes := by
  intro s hw
  have hpadding : Cycles s s.raiseBrkFlag.internalCycle.advancePc :=
    (cycles_internalCycle s).of_eq rfl rfl rfl rfl rfl rfl rfl
  have hcycles := hpadding.trans (cycles_enterVector _ irqVector)
  have hentry : TakesVector s.internalCycle _ 0 (s.pc + 1) (pPush s.flags true) irqVector :=
    takesVector_enterVector (s := s.raiseBrkFlag.internalCycle.advancePc) hw irqVector
      fun sp => ⟨vector_not_stack (by decide) sp, vector_not_stack (by decide) sp⟩
  exact ⟨_, rfl, hcycles.sameSystem, hentry.after (k := 1) rfl rfl rfl rfl rfl⟩

/-- The entry of an accepted interrupt (R162): two internal cycles, then the shared entry with `brk_flag` clear. -/
theorem interruptSequence_accept {s : State} (hw : s.mem.wf = true) (hbrk : s.brkFlag = false) {vector : Word}
    (hv : 0xFFFA ≤ vector.toNat ∧ 0xFFFA ≤ (vector + 1).toNat) :
    TakesVector s (s.accept vector).interruptSequence 2 s.pc (pPush s.flags false) vector ∧
      s.SameSystem (s.accept vector).interruptSequence := by
  have hentry := takesVector_enterVector (s := (s.accept vector).internalCycle.internalCycle) hw vector
    fun sp => ⟨vector_not_stack hv.1 sp, vector_not_stack hv.2 sp⟩
  have hflag : (s.accept vector).internalCycle.internalCycle.brkFlag = false := hbrk
  rw [hflag] at hentry
  have haccept : Cycles s (s.accept vector) := (Cycles.refl s).of_eq rfl rfl rfl rfl rfl rfl rfl
  have hcycles := (haccept.trans (cycles_internalCycle _)).trans (cycles_internalCycle _)
  exact ⟨hentry.after (k := 2) rfl rfl rfl rfl rfl, (hcycles.trans (cycles_enterVector _ vector)).sameSystem⟩

theorem serviceInterrupts_nmi {s : State} (h : s.nmiPending = true) :
    s.serviceInterrupts = ({ s with nmiPending := false }.accept nmiVector).interruptSequence := by
  rw [State.serviceInterrupts, State.interruptCheck, if_pos h]
  exact if_pos rfl

theorem serviceInterrupts_irq {s : State} (hnmi : s.nmiPending = false) (hirq : s.irqLine = true) (hi : s.flags.i = false) :
    s.serviceInterrupts = (s.accept irqVector).interruptSequence := by
  have hcheck : s.interruptCheck = s.accept irqVector := by simp [State.interruptCheck, hnmi, hirq, hi]
  rw [State.serviceInterrupts, hcheck]
  exact if_pos rfl

/-- Settles O23: InterruptCheck picks the vector, and the entry is the same for both. -/
theorem interruptEntry : Obligations.InterruptEntry := by
  intro s hw hbrk
  refine ⟨fun hnmi => ?_, fun hnmi hirq hi => ?_⟩
  · rw [serviceInterrupts_nmi hnmi]
    exact interruptSequence_accept (s := { s with nmiPending := false }) hw hbrk (by decide)
  · rw [serviceInterrupts_irq hnmi hirq hi]
    exact interruptSequence_accept hw hbrk (by decide)

end Sys2Proof.Machine
end

section
/-! SUPPORT. The shifts and rotates as numbers (R221 to R224), and their Accumulator forms (R145, R220). -/

namespace Sys2Proof.Machine

/-! ## Shifts and rotates of a byte -/

/-- Bit 7 is what a shift to the left moves out (R221, R223). -/
theorem getLsbD_seven (b : Byte) : b.getLsbD 7 = decide (128 ≤ b.toNat) := BitVec.msb_eq_decide b

/-- Bit 0 is what a shift to the right moves out (R222, R224). -/
theorem getLsbD_zero (b : Byte) : b.getLsbD 0 = decide (b.toNat % 2 = 1) := Nat.testBit_zero b.toNat

theorem aslValue_eq (f : Flags) (b : Byte) : aslValue f b = BitVec.ofNat 8 (2 * b.toNat) := by
  rw [aslValue]
  bv_omega

theorem lsrValue_eq (f : Flags) (b : Byte) : lsrValue f b = BitVec.ofNat 8 (b.toNat / 2) := by
  rw [lsrValue]
  bv_omega

/-- The old carry is added into the bit that the shift has cleared (R223). -/
theorem rolValue_eq (f : Flags) (b : Byte) : rolValue f b = BitVec.ofNat 8 (2 * b.toNat + bit01 f.c) := by
  have h : ∀ (b : Byte) (c : Bool), b <<< 1 ||| BitVec.ofNat 8 (bit01 c) = BitVec.ofNat 8 (2 * b.toNat + bit01 c) := by
    decide +kernel
  exact h b f.c

/-- The old carry is added into the bit that the shift has cleared (R224). -/
theorem rorValue_eq (f : Flags) (b : Byte) : rorValue f b = BitVec.ofNat 8 (b.toNat / 2 + 128 * bit01 f.c) := by
  have h : ∀ (b : Byte) (c : Bool),
      b >>> 1 ||| BitVec.ofNat 8 (128 * bit01 c) = BitVec.ofNat 8 (b.toNat / 2 + 128 * bit01 c) := by
    decide +kernel
  exact h b f.c

/-! ## The Accumulator forms -/

/-- An Accumulator form completes with its operation's value and flags (R145, R220). -/
theorem modifyClass_acc_completes {i : Instr} {k : Kind} (op : ModifyOp) (s : State)
    (hexec : exec i s = modifyClass k .acc op s) (hk : k.modes.contains .acc = true) :
    Completes i s { s.registers with a := op.value s.flags s.a, flags := op.flags s.flags s.a } :=
  completes_of (hexec.trans (modifyClass_acc op s hk)) ((cycles_internalCycle s).of_eq rfl rfl rfl rfl rfl rfl rfl) rfl rfl

/-- Settles O45: the four operations on A, with their values and carries as numbers. -/
theorem accumulatorShiftsComplete : Obligations.AccumulatorShiftsComplete := by
  intro s
  simp only [withNZ_eq, ← aslValue_eq s.flags, ← lsrValue_eq s.flags, ← rolValue_eq s.flags, ← rorValue_eq s.flags,
    ← getLsbD_seven, ← getLsbD_zero]
  exact ⟨modifyClass_acc_completes aslOp s (k := .asl) rfl rfl, modifyClass_acc_completes lsrOp s (k := .lsr) rfl rfl,
    modifyClass_acc_completes rolOp s (k := .rol) rfl rfl, modifyClass_acc_completes rorOp s (k := .ror) rfl rfl⟩

end Sys2Proof.Machine
end

section
/-! SUPPORT. The cycle count of an instruction (R142): what `exec` adds to the trace is as long as the template of its kind and mode.
For an access class these are the fetches, the resolver's reads, the dummy read and the operand cycles. -/

namespace Sys2Proof.Machine

/-- An outcome is a next state that `n` cycles lead to from the first state. -/
def TakesCycles (s : State) (n : Nat) (r : Host.Outcome State Fault Refusal) : Prop :=
  ∃ t, r = .next t ∧ t.trace.length = s.trace.length + n

/-- The cycles from an earlier state on. -/
theorem TakesCycles.after {s u : State} {n k : Nat} {r : Host.Outcome State Fault Refusal} (h : TakesCycles u n r)
    (hu : u.trace.length = s.trace.length + k) : TakesCycles s (k + n) r := by
  obtain ⟨t, rfl, ht⟩ := h
  exact ⟨t, rfl, by rw [ht, hu, Nat.add_assoc]⟩

/-! ## Instructions with an access class (R144 to R152) -/

/-- The dummy read before the operand access: none in a mode without an un-carried address (R128). -/
theorem Access.before_trace_length (acc : Access) (r : Resolution) :
    (acc.before r).trace.length = r.after.trace.length + (if r.unc.isSome then acc.dummyCycles r.cross else 0) := by
  cases hu : r.unc with
  | none => rw [acc.before_of_unc hu]; rfl
  | some u =>
    rcases acc.dummyCycles_cases r.cross with hd | hd
    · rw [acc.before_of_none hd, hd]; rfl
    · rw [acc.before_of_one hd hu, hd]; rfl

theorem commit_trace_length {k : Kind} {acc : Access} (hk : kindAccess k = some acc) (ea : Word) (s : State) :
    (acc.commit ea s).trace.length = s.trace.length + acc.operandCycles := by
  cases acc with
  | read op => exact congrArg List.length (readOp_trace hk ..)
  | write _ | modify _ => rfl

/-- The cycles of a template by what makes them: the fetches, the resolver's reads, the dummy read, the operand cycles. -/
theorem accessCycles_of_resolve (acc : Access) {o : Operand} {s : State} {r : Resolution} (hr : resolve o s = some r) :
    s.trace.length + accessCycles acc o.mode r.cross =
      o.mode.length + r.after.trace.length + (if r.unc.isSome then acc.dummyCycles r.cross else 0) + acc.operandCycles := by
  cases o with
  | acc | imm _ | ind _ => cases hr
  | zp _ | zpx _ | zpy _ | abs _ | abx _ | aby _ | izx _ | izy _ =>
    cases hr
    simp [accessCycles, Operand.mode, Mode.length, resolveZeroPageIndexed, resolveIndexed, resolveIndexedIndirect,
      resolveIndirectIndexed, State.readPointer]
    omega

/-- An instruction with an access class takes the cycles of its template, those of its fetch from `u` on included. A count
of at least 2 says that the class has a template for the operand's mode. -/
theorem takesCycles_access {i : Instr} {o : Operand} {acc : Access} {u s : State} (hi : i.WellFormed)
    (ho : instrOperand? i = some o) (hk : kindAccess i.kind = some acc) (h2 : 2 ≤ accessCycles acc o.mode false)
    (hfetch : s.trace.length = u.trace.length + o.mode.length) :
    TakesCycles u (accessCycles acc o.mode (operandCrosses o s)) (exec i s) := by
  have hm := modes_of_wellFormed hi ho
  cases hr : resolve o s with
  | some r =>
    have hcross : operandCrosses o s = r.cross := by rw [operandCrosses, hr]
    have hcount := accessCycles_of_resolve acc hr
    refine ⟨_, exec_of_resolve hi ho hk hr, ?_⟩
    rw [hcross, endInstruction_trace, commit_trace_length hk, acc.before_trace_length]
    omega
  | none =>
    cases o with
    | acc =>
      cases acc with
      | modify op =>
        exact ⟨_, (exec_of_modify ho hk s).trans (modifyClass_acc op s hm), congrArg (· + 1) hfetch⟩
      | read _ | write _ => exact absurd h2 (Nat.not_succ_le_zero 1)
    | imm b =>
      cases acc with
      | read op =>
        refine ⟨_, (exec_of_read ho hk s).trans (if_pos hm), ?_⟩
        rw [endInstruction_trace, readOp_trace hk]
        exact hfetch
      | write _ | modify _ => exact absurd h2 (Nat.not_succ_le_zero 1)
    | ind _ => exact absurd h2 (Nat.not_succ_le_zero 1)
    | zp _ | zpx _ | zpy _ | abs _ | abx _ | aby _ | izx _ | izy _ => cases hr

/-! ## The other instructions (R145, R153 to R161) -/

theorem takesCycles_implied {i : Instr} {op : State → State} (hop : kindImpliedOp i.kind = some op) (s : State) :
    TakesCycles s 2 (exec i (s.fetchFor i)) := by
  cases i <;> cases hop <;> exact ⟨_, rfl, rfl⟩

theorem takesCycles_pushClass (v : Byte) (s : State) : TakesCycles s 2 (pushClass v s) := ⟨_, rfl, rfl⟩

theorem takesCycles_pullClass {op : Byte → State → State} (hop : ∀ m u, (op m u).trace = u.trace) (s : State) :
    TakesCycles s 3 (pullClass op s) :=
  ⟨_, rfl, congrArg List.length (hop ..)⟩

theorem takesCycles_execJmp_abs (w : Word) (s : State) : TakesCycles s 0 (execJmp (.abs w) s) := ⟨_, rfl, rfl⟩

theorem takesCycles_execJmp_ind (w : Word) (s : State) : TakesCycles s 2 (execJmp (.ind w) s) := ⟨_, rfl, rfl⟩

theorem takesCycles_execJsr (target : Word) (s : State) : TakesCycles s 4 (execJsr target s) := ⟨_, rfl, rfl⟩

theorem takesCycles_execRts (s : State) : TakesCycles s 5 (execRts s) := ⟨_, rfl, rfl⟩

theorem takesCycles_execRti (s : State) : TakesCycles s 5 (execRti s) := ⟨_, rfl, rfl⟩

theorem takesCycles_execBrk (s : State) : TakesCycles s 6 (execBrk s) := ⟨_, rfl, rfl⟩

/-- A branch takes one cycle when taken, and one more when it then crosses (R153). -/
theorem takesCycles_branchClass (cond : Bool) (off : Byte) (s : State) :
    TakesCycles s (bit01 cond + bit01 (cond && branchCrosses s.pc off)) (branchClass cond off s) := by
  cases cond with
  | false => exact ⟨_, rfl, rfl⟩
  | true =>
    cases hc : branchCrosses s.pc off
    · exact ⟨_, by rw [branchClass, hc]; rfl, rfl⟩
    · exact ⟨_, by rw [branchClass, hc]; rfl, rfl⟩

theorem takesCycles_branch {i : Instr} {cond : Flags → Bool} {off : Byte} (hcond : kindCondition i.kind = some cond)
    (hoff : instrOffset? i = some off) (s : State) :
    TakesCycles s (otherCycles i.kind i.mode (instrCrosses i (s.fetchFor i)) (instrTaken i (s.fetchFor i)))
      (exec i (s.fetchFor i)) := by
  have h := (takesCycles_branchClass (cond s.flags) off s.afterOpcode.fetchByte).after (s := s) (k := 2) rfl
  rw [← Nat.add_assoc] at h
  cases i <;> cases hcond <;> cases hoff <;> exact h

theorem takesCycles_jmp {o : Operand} (hi : (Instr.jmp o).WellFormed) (s : State) :
    TakesCycles s (otherCycles .jmp o.mode false false) (exec (.jmp o) (s.fetchFor (.jmp o))) := by
  have hm : Kind.jmp.modes.contains o.mode = true := modes_of_wellFormed hi rfl
  cases o with
  | abs w => exact (takesCycles_execJmp_abs w s.afterOpcode.fetchByte.fetchByte).after (k := 3) rfl
  | ind w => exact (takesCycles_execJmp_ind w s.afterOpcode.fetchByte.fetchByte).after (k := 3) rfl
  | _ => cases hm

/-- An instruction with a template of its own takes that template's cycles. -/
theorem takesCycles_other {i : Instr} (hi : i.WellFormed) (hk : kindAccess i.kind = none) (hill : i.kind ≠ .ill)
    (s : State) :
    TakesCycles s (otherCycles i.kind i.mode (instrCrosses i (s.fetchFor i)) (instrTaken i (s.fetchFor i)))
      (exec i (s.fetchFor i)) := by
  cases i with
  | jmp o => exact takesCycles_jmp hi s
  | jsr target => exact (takesCycles_execJsr target s.afterOpcode.fetchByte).after (k := 2) rfl
  | rts => exact (takesCycles_execRts s.afterOpcode).after (k := 1) rfl
  | rti => exact (takesCycles_execRti s.afterOpcode).after (k := 1) rfl
  | brk => exact (takesCycles_execBrk s.afterOpcode).after (k := 1) rfl
  | pha | php => exact (takesCycles_pushClass _ s.afterOpcode).after (k := 1) rfl
  | pla => exact (takesCycles_pullClass (op := State.loadA) (fun _ _ => rfl) s.afterOpcode).after (k := 1) rfl
  | plp => exact (takesCycles_pullClass (op := State.pullFlags) (fun _ _ => rfl) s.afterOpcode).after (k := 1) rfl
  | tax | tay | txa | tya | tsx | txs | inx | iny | dex | dey | clc | sec | cli | sei | clv | cld | sed | nop =>
    exact takesCycles_implied rfl s
  | bpl _ | bmi _ | bvc _ | bvs _ | bcc _ | bcs _ | bne _ | beq _ => exact takesCycles_branch rfl rfl s
  | ill _ => exact absurd rfl hill
  | _ => cases hk

/-! ## Every instruction -/

theorem fetchFor_trace_length {i : Instr} (s : State) (hill : i.kind ≠ .ill) (hjsr : i.kind ≠ .jsr) :
    (s.fetchFor i).trace.length = s.trace.length + i.mode.length := by
  rcases fetchFor_cases s hill hjsr with ⟨hlen, h⟩ | ⟨hlen, h⟩ | ⟨hlen, h⟩ <;> rw [h, hlen] <;> rfl

/-- An instruction with an access class has an operand, and its page-cross report is the operand's (R133). -/
theorem operand_of_access {i : Instr} {acc : Access} (hk : kindAccess i.kind = some acc) :
    ∃ o, instrOperand? i = some o ∧ i.mode = o.mode ∧ ∀ s, instrCrosses i s = operandCrosses o s := by
  cases i <;> cases hk <;> exact ⟨_, rfl, rfl, fun _ => rfl⟩

/-- An instruction takes the cycles of its template (R142). -/
theorem takesCycles_exec {i : Instr} (hi : i.WellFormed) (hill : i.kind ≠ .ill)
    (h2 : 2 ≤ templateCycles i.kind i.mode false false) (s : State) :
    TakesCycles s (templateCycles i.kind i.mode (instrCrosses i (s.fetchFor i)) (instrTaken i (s.fetchFor i)))
      (exec i (s.fetchFor i)) := by
  cases hk : kindAccess i.kind with
  | none =>
    rw [templateCycles_other hk]
    exact takesCycles_other hi hk hill s
  | some acc =>
    have hjsr : i.kind ≠ .jsr := by
      intro h
      rw [h] at hk
      cases hk
    obtain ⟨o, ho, hmode, hcross⟩ := operand_of_access hk
    have hfetch := fetchFor_trace_length s hill hjsr
    rw [templateCycles_access hk, hmode] at h2 ⊢
    rw [hmode] at hfetch
    rw [hcross]
    exact takesCycles_access hi ho hk h2 hfetch

/-- Settles O10: the counts of the opcode table are those of the templates, and an instruction takes its template's cycles. -/
theorem cycleCountContract : Obligations.CycleCountContract := by
  intro s _ hill
  have hkind : s.nextInstr.kind = (optab s.opcodeByte).kind := decodeBytes_kind ..
  have hmode : s.nextInstr.mode = (optab s.opcodeByte).mode := decodeBytes_mode ..
  have h2 := (optab_cycles_bounds s.opcodeByte false false hill).1
  rw [optab_cycles _ _ _ hill, ← hkind, ← hmode] at h2
  rw [optab_cycles _ _ _ hill, ← hkind, ← hmode]
  rw [← hkind] at hill
  exact takesCycles_exec (decodeBytes_wellFormed ..) hill h2 s

end Sys2Proof.Machine
end

section
/-! SUPPORT. Loads, stores and register instructions (R144, R145, R170 to R181, R227 to R230): what a read-class or an Implied kind
commits is a function of the register file, and a kind of the write class stores one byte; each class completes by one lemma. -/

namespace Sys2Proof.Machine

/-! ## Operations on the register file -/

/-- The state with another register file. -/
def State.withRegisters (r : Registers) (s : State) : State :=
  { s with a := r.a, x := r.x, y := r.y, sp := r.sp, pc := r.pc, flags := r.flags }

theorem withRegisters_registers (r : Registers) (s : State) : (s.withRegisters r).registers = r := rfl

theorem cycles_withRegisters (r : Registers) (s : State) : Cycles s (s.withRegisters r) :=
  (Cycles.refl s).of_eq rfl rfl rfl rfl rfl rfl rfl

/-- An operation on the register file: its result is determined by the registers and flags alone, and it writes nothing else. -/
def OnRegisters (g : State → State) : Prop :=
  ∀ s v : State, g (v.withRegisters s.registers) = v.withRegisters (g s).registers

theorem BusOnly.withRegisters_eq {s u : State} (h : BusOnly s u) : u.withRegisters s.registers = u := by
  obtain ⟨tr, dg, rfl⟩ := h
  rfl

theorem BusOnly.mem {s u : State} (h : BusOnly s u) : u.mem = s.mem := by
  obtain ⟨tr, dg, rfl⟩ := h
  rfl

theorem BusOnly.registers {s u : State} (h : BusOnly s u) : u.registers = s.registers := by
  obtain ⟨tr, dg, rfl⟩ := h
  rfl

/-- An instruction that commits such an operation after reads and internal cycles completes with its registers. -/
theorem OnRegisters.completes {g : State → State} (hg : OnRegisters g) {i : Instr} {s u : State} (hu : BusOnly s u)
    (h : exec i s = .next (g u).endInstruction) : Completes i s (g s).registers := by
  have hgu : g u = u.withRegisters (g s).registers := by rw [← hg, hu.withRegisters_eq]
  rw [hgu] at h
  exact completes_of h (hu.cycles.trans (cycles_withRegisters ..)) hu.mem (withRegisters_registers ..)

/-- The operation a read-class kind commits (R170 to R172, R201 to R209). -/
theorem readOp_onRegisters {k : Kind} {op : Byte → State → State} (h : kindAccess k = some (.read op)) (m : Byte) :
    OnRegisters (op m) := by
  cases k <;> cases h <;> exact fun _ _ => rfl

/-- The operation of an Implied two-cycle kind (R176 to R181, R227 to R230, R260 to R267). -/
theorem impliedOp_onRegisters {k : Kind} {op : State → State} (h : kindImpliedOp k = some op) : OnRegisters op := by
  cases k <;> cases h <;> exact fun _ _ => rfl

/-! ## The classes complete (R144, R145) -/

/-- No read-class kind has the Accumulator or the Indirect form (R86). -/
theorem operand_of_read {k : Kind} {op : Byte → State → State} (h : kindAccess k = some (.read op)) {o : Operand}
    (hm : k.modes.contains o.mode = true) : o ≠ .acc ∧ ∀ w, o ≠ .ind w := by
  have hnot : k.modes.contains .acc = false ∧ k.modes.contains .ind = false := by
    cases k <;> cases h <;> exact ⟨rfl, rfl⟩
  obtain ⟨hacc, hind⟩ := hnot
  constructor
  · rintro rfl
    exact Bool.false_ne_true (hacc.symm.trans hm)
  · rintro w rfl
    exact Bool.false_ne_true (hind.symm.trans hm)

/-- Every form of a write-class kind stands for a byte of memory (R86, R144). -/
theorem operandAddress_isSome_of_write {k : Kind} {v : State → Byte} (h : kindAccess k = some (.write v)) {o : Operand}
    (hm : k.modes.contains o.mode = true) (s : State) : (operandAddress o s).isSome = true := by
  have hnot : k.modes.contains .acc = false ∧ k.modes.contains .imm = false ∧ k.modes.contains .ind = false := by
    cases k <;> cases h <;> exact ⟨rfl, rfl, rfl⟩
  obtain ⟨hacc, himm, hind⟩ := hnot
  cases o with
  | acc => exact absurd (hacc.symm.trans hm) Bool.false_ne_true
  | imm _ => exact absurd (himm.symm.trans hm) Bool.false_ne_true
  | ind _ => exact absurd (hind.symm.trans hm) Bool.false_ne_true
  | zp _ | zpx _ | zpy _ | abs _ | abx _ | aby _ | izx _ | izy _ => rfl

section
variable {i : Instr} {o : Operand} (hi : i.WellFormed) (ho : instrOperand? i = some o)
include hi ho

/-- A read-class instruction completes with what its operation makes of the operand byte (R144). -/
theorem completes_of_read {op : Byte → State → State} (hk : kindAccess i.kind = some (.read op)) (s : State) :
    Completes i s (op (operandByte o s) s).registers := by
  have hm := modes_of_wellFormed hi ho
  obtain ⟨hacc, hind⟩ := operand_of_read hk hm
  obtain ⟨u, hu, hnext⟩ := readClass_next (s := s) op hm hacc hind
  exact (readOp_onRegisters hk _).completes hu ((exec_of_read ho hk s).trans hnext)

/-- A write-class instruction completes with its register's byte stored there (R144). -/
theorem completesStoring_of_write {v : State → Byte} (hk : kindAccess i.kind = some (.write v)) {s : State}
    (hw : s.mem.wf = true) {ea : Word} (hea : operandAddress o s = some ea) :
    CompletesStoring i s s.registers ea (v s) := by
  obtain ⟨r, hr, rfl⟩ := operandAddress_eq_some hea
  have hbus : BusOnly s r.beforeWrite := (resolve_busOnly hr).trans r.beforeWrite_busOnly
  exact completesStoring_of hw ((exec_of_write ho hk s).trans (writeClass_next (v s) (modes_of_wellFormed hi ho) hr))
    hbus.cycles hbus.mem rfl rfl (Cycles.refl _) hbus.registers

end

theorem exec_of_implied {i : Instr} {op : State → State} (hk : kindImpliedOp i.kind = some op) (s : State) :
    exec i s = impliedClass op s := by
  cases i <;> cases hk <;> rfl

/-- An Implied two-cycle instruction completes with its operation's registers (R145). -/
theorem completes_of_implied {i : Instr} (op : State → State) (hk : kindImpliedOp i.kind = some op) (s : State) :
    Completes i s (op s).registers :=
  (impliedOp_onRegisters hk).completes (busOnly_internalCycle s) (exec_of_implied hk s)

/-! ## The instructions (R170 to R181, R227 to R230) -/

/-- Settles O37: the three kinds are of the read class, and their operations load one register. -/
theorem loadsComplete : Obligations.LoadsComplete := by
  intro o s
  simp only [withNZ_eq]
  exact ⟨fun hk => completes_of_read (i := .lda o) hk rfl rfl s, fun hk => completes_of_read (i := .ldx o) hk rfl rfl s,
    fun hk => completes_of_read (i := .ldy o) hk rfl rfl s⟩

/-- Settles O39: the three kinds are of the write class. -/
theorem storesComplete : Obligations.StoresComplete := fun _ s hw =>
  ⟨fun hk => ⟨operandAddress_isSome_of_write (k := .sta) rfl hk s,
      fun _ hea => completesStoring_of_write (i := .sta _) hk rfl rfl hw hea⟩,
    fun hk => ⟨operandAddress_isSome_of_write (k := .stx) rfl hk s,
      fun _ hea => completesStoring_of_write (i := .stx _) hk rfl rfl hw hea⟩,
    fun hk => ⟨operandAddress_isSome_of_write (k := .sty) rfl hk s,
      fun _ hea => completesStoring_of_write (i := .sty _) hk rfl rfl hw hea⟩⟩

/-- Settles O40: the ten are Implied two-cycle instructions; the steps by 1 are sums modulo 256. -/
theorem registerInstructionsComplete : Obligations.RegisterInstructionsComplete := by
  intro s up down
  have hup : ∀ b, up b = b + 1 := fun b => by simp only [up]; bv_omega
  have hdown : ∀ b, down b = b - 1 := fun b => by simp only [down]; bv_omega
  simp only [withNZ_eq, hup, hdown]
  exact ⟨completes_of_implied State.taxOp rfl s, completes_of_implied State.tayOp rfl s,
    completes_of_implied State.txaOp rfl s, completes_of_implied State.tyaOp rfl s,
    completes_of_implied State.tsxOp rfl s, completes_of_implied State.txsOp rfl s,
    completes_of_implied State.inxOp rfl s, completes_of_implied State.inyOp rfl s,
    completes_of_implied State.dexOp rfl s, completes_of_implied State.deyOp rfl s⟩

end Sys2Proof.Machine
end

section
/-! SUPPORT. Pushes and pulls (R159, R160, R190 to R193): the push class stores one byte after an internal cycle, and the pull class
commits an operation on the register file, SP being one more by then; each class completes by one lemma. -/

namespace Sys2Proof.Machine

/-- A push instruction completes: an internal cycle, then the store (R159). -/
theorem completesStoring_of_push {i : Instr} {s : State} {v : Byte} (hexec : exec i s = pushClass v s)
    (hw : s.mem.wf = true) : CompletesStoring i s { s.registers with sp := s.sp - 1 } (stackAddress s.sp) v :=
  completesStoring_of hw hexec (cycles_internalCycle s) rfl rfl rfl
    ((Cycles.refl _).of_eq rfl rfl rfl rfl rfl rfl rfl) rfl

/-- Settles O52: both are of the push class; PHP's byte is the status with B = 1. -/
theorem pushesComplete : Obligations.PushesComplete := fun _ hw =>
  ⟨completesStoring_of_push rfl hw, completesStoring_of_push rfl hw⟩

/-- A pull instruction whose operation is one on the register file completes with what that operation makes of the registers once
SP is one more (R160). -/
theorem completes_of_pull {op : Byte → State → State} (hop : ∀ m, OnRegisters (op m)) {i : Instr} {s : State} {m : Byte}
    (hexec : exec i s = pullClass op s) (hm : s.internalCycle.internalCycle.popSp.stackTop = m) :
    Completes i s (op m s.popSp).registers := by
  have hbus : BusOnly s.popSp s.internalCycle.internalCycle.popSp.readStack :=
    ((busOnly_internalCycle s.popSp).trans (busOnly_internalCycle _)).trans (busOnly_readOperand ..)
  have hresult : op m s.internalCycle.internalCycle.popSp.readStack =
      s.internalCycle.internalCycle.popSp.readStack.withRegisters (op m s.popSp).registers := by
    rw [← hop, hbus.withRegisters_eq]
  have hnext : exec i s = .next (op m s.internalCycle.internalCycle.popSp.readStack).endInstruction := by
    rw [hexec, pullClass, hm, done]
  rw [hresult] at hnext
  exact completes_of hnext (((cycles_popSp s).trans hbus.cycles).trans (cycles_withRegisters ..)) rfl rfl

/-- Settles O53: both are of the pull class and read the same byte. -/
theorem pullsComplete : Obligations.PullsComplete := by
  intro s
  simp only [withNZ_eq]
  refine ⟨_, (readsAs_busValue s.internalCycle.internalCycle.popSp _).of_eq rfl rfl rfl,
    completes_of_pull (op := State.loadA) (fun _ _ _ => rfl) rfl rfl,
    completes_of_pull (op := State.pullFlags) (fun _ _ _ => rfl) rfl rfl, fun t ht => ?_⟩
  cases ht
  rfl

end Sys2Proof.Machine
end

section
/-! SUPPORT. The arithmetic of 45_alu.md as numbers: `add_binary` with its carry and overflow (R210), the complement that SBC adds
(R205), the decimal digits of R211 and R212, and the flags of a comparison and of BIT (R213, R209). -/

namespace Sys2Proof.Machine

/-! ## The complement SBC adds (R205) -/

theorem complement_eq_not (b : Byte) : b ^^^ 0xFF = ~~~b := BitVec.xor_allOnes

theorem complement_toNat (b : Byte) : (b ^^^ 0xFF).toNat = 255 - b.toNat := by
  rw [complement_eq_not, BitVec.toNat_not]

theorem complement_toInt (b : Byte) : (b ^^^ 0xFF).toInt = -b.toInt - 1 := by
  rw [BitVec.toInt_eq_toNat_cond, BitVec.toInt_eq_toNat_cond, complement_toNat]
  have := b.isLt
  split <;> split <;> omega

/-! ## Binary addition and subtraction (R210) -/

theorem bit01_le_one (c : Bool) : bit01 c ≤ 1 := by cases c <;> decide

theorem bit01_decide (p : Prop) [Decidable p] : bit01 (decide p) = if p then 1 else 0 := by
  simp only [bit01, decide_eq_true_iff]

theorem addBinary_r_toNat (a b : Byte) (c : Bool) : (addBinary a b c).r.toNat = (a.toNat + b.toNat + bit01 c) % 256 :=
  BitVec.toNat_ofNat ..

theorem addBinary_c_iff (a b : Byte) (c : Bool) : (addBinary a b c).c = true ↔ 255 < a.toNat + b.toNat + bit01 c :=
  decide_eq_true_iff

/-- V is a matter of three signs: the operands have one, and the result the other (R210). -/
theorem addBinary_v_iff_signs (a b : Byte) (c : Bool) :
    (addBinary a b c).v = true ↔
      (128 ≤ a.toNat ↔ 128 ≤ b.toNat) ∧ ¬(128 ≤ a.toNat ↔ 128 ≤ (addBinary a b c).r.toNat) := by
  have hv : (addBinary a b c).v =
      (!(a.getLsbD 7 ^^ b.getLsbD 7) && (a.getLsbD 7 ^^ (addBinary a b c).r.getLsbD 7)) := by
    simp only [addBinary, BitVec.getLsbD_and, BitVec.getLsbD_not, BitVec.getLsbD_xor]
    rfl
  rw [hv, getLsbD_seven, getLsbD_seven, getLsbD_seven]
  simp

/-- Those signs say that the signed sum leaves the range of a byte (R210). -/
theorem addBinary_v_iff (a b : Byte) (c : Bool) :
    (addBinary a b c).v = true ↔ a.toInt + b.toInt + bit01 c < -128 ∨ 127 < a.toInt + b.toInt + bit01 c := by
  have hc := bit01_le_one c
  have ha := a.isLt
  have hb := b.isLt
  rw [addBinary_v_iff_signs, addBinary_r_toNat, BitVec.toInt_eq_toNat_cond, BitVec.toInt_eq_toNat_cond]
  split <;> split <;> omega

/-- On the complement the carry is no borrow (R205). -/
theorem addBinary_complement_c_iff (a b : Byte) (c : Bool) :
    (addBinary a (b ^^^ 0xFF) c).c = true ↔ b.toNat + (1 - bit01 c) ≤ a.toNat := by
  have hc := bit01_le_one c
  have hb := b.isLt
  rw [addBinary_c_iff, complement_toNat]
  omega

/-- On the complement V is the overflow of the signed difference (R210). -/
theorem addBinary_complement_v_iff (a b : Byte) (c : Bool) :
    (addBinary a (b ^^^ 0xFF) c).v = true ↔
      a.toInt - b.toInt - (1 - bit01 c : Int) < -128 ∨ 127 < a.toInt - b.toInt - (1 - bit01 c : Int) := by
  rw [addBinary_v_iff, complement_toInt]
  omega

/-- On the complement the result is the difference, less the borrow (R205). -/
theorem addBinary_complement_r (a b : Byte) (c : Bool) : (addBinary a (b ^^^ 0xFF) c).r = a - b - (if c then 0 else 1) := by
  apply BitVec.eq_of_toNat_eq
  have hb := b.isLt
  rw [addBinary_r_toNat, complement_toNat]
  cases c <;> simp [bit01, BitVec.toNat_sub] <;> omega

/-- Settles O35, the clauses for the complement being those for a sum with it. -/
theorem addBinary_spec : Obligations.AddBinary := fun a b c =>
  ⟨addBinary_r_toNat a b c, addBinary_c_iff a b c, rfl, addBinary_v_iff a b c, addBinary_complement_c_iff a b c,
    addBinary_complement_v_iff a b c⟩

/-! ## Decimal digits (R211, R212) -/

/-- The nibbles of a byte put together from two. -/
theorem nibbles_of_digits {hi lo : Nat} (hhi : hi < 16) (hlo : lo < 16) :
    highNibble (BitVec.ofNat 8 (16 * hi + lo)) = hi ∧ lowNibble (BitVec.ofNat 8 (16 * hi + lo)) = lo := by
  rw [highNibble, lowNibble, BitVec.toNat_ofNat]
  omega

/-- A sum of two digits and a carry, corrected: the nibble holds its last digit and carries out the other (R211). -/
theorem addCorrect_of_digits {d : Nat} (hd : d ≤ 19) :
    addCorrect d % 16 = d % 10 ∧ bit01 (decide (addCorrect d > 0x0F)) = d / 10 := by
  rw [bit01_decide, addCorrect]
  split <;> split <;> omega

theorem eq_true_iff_bit01 (c : Bool) : c = true ↔ bit01 c = 1 := by cases c <;> decide

/-- Decimal addition of decimal digits, digit by digit: the digits of the sum and the carry into the hundreds (R211). -/
theorem adcDecimal_of_digits {a b : Byte} (ha : validBcd a) (hb : validBcd b) (c : Bool) :
    validBcd (adcDecimal a b c).r ∧
      bcdValue (adcDecimal a b c).r = (bcdValue a + bcdValue b + bit01 c) % 100 ∧
      ((adcDecimal a b c).c = true ↔ 100 ≤ bcdValue a + bcdValue b + bit01 c) := by
  obtain ⟨hal, hah⟩ := ha
  obtain ⟨hbl, hbh⟩ := hb
  have hc := bit01_le_one c
  obtain ⟨hlo, hcarry⟩ := addCorrect_of_digits (d := lowNibble a + lowNibble b + bit01 c) (by omega)
  obtain ⟨hhi, hout⟩ := addCorrect_of_digits
    (d := highNibble a + highNibble b + (lowNibble a + lowNibble b + bit01 c) / 10) (by omega)
  simp only [eq_true_iff_bit01, validBcd, bcdValue, adcDecimal, hlo, hcarry, hhi, hout]
  rw [(nibbles_of_digits (by omega) (by omega)).1, (nibbles_of_digits (by omega) (by omega)).2]
  omega

/-- A difference of two digits and a borrow, corrected: the digit it is modulo 10, with a borrow when it is negative (R212). -/
theorem subCorrect_of_digits {d : Int} (hlo : -10 ≤ d) (hhi : d ≤ 9) :
    (subCorrect d : Int) = d % 10 ∧ (bit01 (decide (d < 0)) : Int) = -(d / 10) := by
  rw [bit01_decide, subCorrect]
  split <;> omega

/-- Decimal subtraction of decimal digits, digit by digit: the digits of the difference (R212). -/
theorem sbcDecimal_of_digits {a b : Byte} (ha : validBcd a) (hb : validBcd b) (c : Bool) :
    validBcd (sbcDecimal a b c).r ∧
      (bcdValue (sbcDecimal a b c).r : Int) = ((bcdValue a : Int) - bcdValue b - (1 - bit01 c)) % 100 := by
  obtain ⟨hal, hah⟩ := ha
  obtain ⟨hbl, hbh⟩ := hb
  have hc := bit01_le_one c
  obtain ⟨hlo, hborrow⟩ := subCorrect_of_digits (d := lowNibble a - lowNibble b - (1 - bit01 c)) (by omega) (by omega)
  obtain ⟨hhi, -⟩ := subCorrect_of_digits
    (d := highNibble a - highNibble b - -((lowNibble a - lowNibble b - (1 - bit01 c)) / 10)) (by omega) (by omega)
  simp only [validBcd, bcdValue, sbcDecimal, hborrow]
  rw [(nibbles_of_digits (by omega) (by omega)).1, (nibbles_of_digits (by omega) (by omega)).2]
  omega

/-- The borrow out of the decimal difference is that of the binary one, invalid digits included (R212, D11). -/
theorem sbcDecimal_c_iff (a b : Byte) (c : Bool) : (sbcDecimal a b c).c = true ↔ b.toNat + (1 - bit01 c) ≤ a.toNat := by
  have hc := bit01_le_one c
  refine decide_eq_true_iff.trans ?_
  rw [bit01_decide, lowNibble, lowNibble, highNibble, highNibble]
  split <;> omega

/-- Settles O36, digit by digit. -/
theorem decimalArithmetic : Obligations.DecimalArithmetic := fun a b c =>
  ⟨rfl, fun ha hb => adcDecimal_of_digits ha hb c, rfl,
    Bool.eq_iff_iff.mpr ((sbcDecimal_c_iff a b c).trans (addBinary_complement_c_iff a b c).symm),
    fun ha hb => sbcDecimal_of_digits ha hb c⟩

/-! ## The flags of a comparison and of BIT (R213, R209) -/

/-- The flags of a comparison, as numbers (R213). -/
theorem compare_eq (f : Flags) (r m : Byte) :
    f.compare r m =
      { f with
        c := decide (m.toNat ≤ r.toNat)
        z := decide (r = m)
        n := decide (128 ≤ (r.toNat + 256 - m.toNat) % 256) } := by
  have hn : (r - m).getLsbD 7 = decide (128 ≤ (r.toNat + 256 - m.toNat) % 256) := by
    have := m.isLt
    rw [getLsbD_seven, BitVec.toNat_sub, show 2 ^ 8 - m.toNat + r.toNat = r.toNat + 256 - m.toNat by omega]
  rw [Flags.compare, hn, beq_eq_decide]

/-- The flags of BIT, as numbers (R209). -/
theorem bitTest_eq (f : Flags) (a m : Byte) :
    f.bitTest a m =
      { f with z := decide (a &&& m = 0), n := decide (128 ≤ m.toNat), v := decide (64 ≤ m.toNat % 128) } := by
  have hv : m.getLsbD 6 = decide (64 ≤ m.toNat % 128) := by
    rw [BitVec.getLsbD, Nat.testBit_eq_decide_div_mod_eq, decide_eq_decide]
    omega
  rw [Flags.bitTest, getLsbD_seven, hv, beq_eq_decide]

/-! ## The instructions (R200 to R209) -/

/-- Settles O41: the three kinds are of the read class, and their operations load A. -/
theorem logicCompletes : Obligations.LogicCompletes := by
  intro o s
  simp only [withNZ_eq]
  exact ⟨fun hk => completes_of_read (i := .ora o) hk rfl rfl s, fun hk => completes_of_read (i := .and o) hk rfl rfl s,
    fun hk => completes_of_read (i := .eor o) hk rfl rfl s⟩

/-- The borrow that SBC subtracts, 1 - C (R205). -/
theorem one_sub_bit01 (c : Bool) : 1 - bit01 c = if c then 0 else 1 := by cases c <;> rfl

/-- C after SBC is no borrow, in either mode (R205). -/
theorem sbcSum_c_iff (f : Flags) (a m : Byte) :
    (sbcSum f a m).c = true ↔ m.toNat + (if f.c then 0 else 1) ≤ a.toNat := by
  rw [← one_sub_bit01, sbcSum]
  split
  · exact sbcDecimal_c_iff a m f.c
  · exact addBinary_complement_c_iff a m f.c

/-- Settles O42: both kinds are of the read class, and commit `adcSum` and `sbcSum`. -/
theorem addAndSubtractComplete : Obligations.AddAndSubtractComplete := by
  intro o s m sum diff
  simp only [withNZ_eq]
  refine ⟨fun hk => completes_of_read (i := .adc o) hk rfl rfl s, fun hk => completes_of_read (i := .sbc o) hk rfl rfl s,
    fun hd => ?_, sbcSum_c_iff s.flags s.a m⟩
  have hdiff : diff = addBinary s.a (m ^^^ 0xFF) s.flags.c := if_neg (by simp [hd])
  rw [hdiff, addBinary_complement_r]

/-- Settles O43: the four kinds are of the read class, and their operations write only flags. -/
theorem comparesAndBitComplete : Obligations.ComparesAndBitComplete := by
  intro o s m compared
  have hcompared : ∀ r, compared r = s.flags.compare r m := fun r => (compare_eq s.flags r m).symm
  simp only [hcompared, ← bitTest_eq]
  exact ⟨fun hk => completes_of_read (i := .cmp o) hk rfl rfl s, fun hk => completes_of_read (i := .cpx o) hk rfl rfl s,
    fun hk => completes_of_read (i := .cpy o) hk rfl rfl s, fun hk => completes_of_read (i := .bit o) hk rfl rfl s⟩

end Sys2Proof.Machine
end

section
/-! SUPPORT. The memory forms of the shifts, rotates, INC and DEC (R144, R220 to R226): writing back the byte just read changes no
memory, so a read-modify-write instruction is one that stores its new value in its last cycle. -/

namespace Sys2Proof.Machine

/-- Writing back what a read gives leaves the device memory as it was (R53, R57, R144). -/
theorem memAfterWrite_busValue {s : State} (hw : s.mem.wf = true) (a : Word) : s.memAfterWrite a (s.busValue a) = s.mem := by
  by_cases hd : s.deviceAt a = some .ram
  · have hread : s.busValue a = s.mem.read a.toNat := by
      rw [State.busValue, hd]
    refine Memory.eq_of_read_eq (State.memAfterWrite_wf hw ..) hw fun x => ?_
    by_cases hx : a.toNat = x
    · rw [← hx, State.memAfterWrite_ram hw hd, hread]
    · exact State.memAfterWrite_other hw _ hx
  · exact memAfterWrite_of_not_ram _ hd

/-- The state before the last cycle of a read-modify-write instruction: the operand is read and its old value written back (R144). -/
def Resolution.writtenBack (r : Resolution) : State :=
  (r.beforeWrite.readOperand r.ea).writeOperand r.ea (r.beforeWrite.busValue r.ea)

theorem Resolution.cycles_writtenBack (r : Resolution) : Cycles r.beforeWrite r.writtenBack :=
  (cycles_readOperand ..).trans (cycles_writeOperand ..)

theorem Resolution.writtenBack_mem (r : Resolution) (hw : r.beforeWrite.mem.wf = true) :
    r.writtenBack.mem = r.beforeWrite.mem :=
  memAfterWrite_busValue hw r.ea

/-- Every form of a read-modify-write kind but the Accumulator stands for a byte of memory (R86, R220). -/
theorem operandAddress_isSome_of_modify {k : Kind} {op : ModifyOp} (h : kindAccess k = some (.modify op)) {o : Operand}
    (hm : k.modes.contains o.mode = true) (hacc : o ≠ .acc) (s : State) : (operandAddress o s).isSome = true := by
  have hnot : k.modes.contains .imm = false ∧ k.modes.contains .ind = false := by
    cases k <;> cases h <;> exact ⟨rfl, rfl⟩
  obtain ⟨himm, hind⟩ := hnot
  have hnimm : ∀ b, o ≠ .imm b := by
    rintro b rfl
    exact Bool.false_ne_true (himm.symm.trans hm)
  have hnind : ∀ w, o ≠ .ind w := by
    rintro w rfl
    exact Bool.false_ne_true (hind.symm.trans hm)
  obtain ⟨r, hr⟩ := resolve_isSome s hacc hnimm hnind
  rw [operandAddress, hr]
  rfl

section
variable {i : Instr} {o : Operand} (hi : i.WellFormed) (ho : instrOperand? i = some o) {op : ModifyOp}
  (hk : kindAccess i.kind = some (.modify op)) {s : State} (hw : s.mem.wf = true)
include hi ho hk hw

/-- A read-modify-write instruction completes with its operation's flags and value, the value stored there (R144, R220). -/
theorem completesStoring_of_modify {ea : Word} (hea : operandAddress o s = some ea) :
    CompletesStoring i s { s.registers with flags := op.flags s.flags (oldByte o s) } ea
      (op.value s.flags (oldByte o s)) := by
  obtain ⟨r, hr, rfl⟩ := operandAddress_eq_some hea
  have hbus : BusOnly s r.beforeWrite := (resolve_busOnly hr).trans r.beforeWrite_busOnly
  have hmem : r.writtenBack.mem = s.mem := (r.writtenBack_mem (hbus.mem ▸ hw)).trans hbus.mem
  have hnext := (exec_of_modify ho hk s).trans (modifyClass_next op (modes_of_wellFormed hi ho) hr)
  rw [oldByte_of_resolve hr, ← hbus.flags, ← hbus.registers]
  exact completesStoring_of hw hnext (hbus.cycles.trans r.cycles_writtenBack) hmem rfl rfl
    ((Cycles.refl _).of_eq rfl rfl rfl rfl rfl rfl rfl) rfl

/-- Each memory form of such an instruction has an address, and completes with the value stored there (R144, R220). -/
theorem memoryForm_completesStoring (hacc : o ≠ .acc) :
    (operandAddress o s).isSome = true ∧ ∀ ea, operandAddress o s = some ea →
      CompletesStoring i s { s.registers with flags := op.flags s.flags (oldByte o s) } ea
        (op.value s.flags (oldByte o s)) :=
  ⟨operandAddress_isSome_of_modify hk (modes_of_wellFormed hi ho) hacc s,
    fun _ hea => completesStoring_of_modify hi ho hk hw hea⟩

end

theorem incValue_eq (f : Flags) (b : Byte) : incValue f b = BitVec.ofNat 8 (b.toNat + 1) := by
  rw [incValue]
  bv_omega

theorem decValue_eq (f : Flags) (b : Byte) : decValue f b = BitVec.ofNat 8 (b.toNat + 255) := by
  rw [decValue]
  bv_omega

/-- Settles O44: the six instructions are the read-modify-write class on their operations, with their values and carries as
numbers. -/
theorem memoryModifiesComplete : Obligations.MemoryModifiesComplete := by
  intro o s hw hacc
  simp only [withNZ_eq, ← aslValue_eq s.flags, ← lsrValue_eq s.flags, ← rolValue_eq s.flags, ← rorValue_eq s.flags,
    ← incValue_eq s.flags, ← decValue_eq s.flags, ← getLsbD_seven, ← getLsbD_zero]
  exact ⟨fun hk => memoryForm_completesStoring (i := .asl o) hk rfl rfl hw hacc,
    fun hk => memoryForm_completesStoring (i := .lsr o) hk rfl rfl hw hacc,
    fun hk => memoryForm_completesStoring (i := .rol o) hk rfl rfl hw hacc,
    fun hk => memoryForm_completesStoring (i := .ror o) hk rfl rfl hw hacc,
    fun hk => memoryForm_completesStoring (i := .inc o) hk rfl rfl hw hacc,
    fun hk => memoryForm_completesStoring (i := .dec o) hk rfl rfl hw hacc⟩

end Sys2Proof.Machine
end

section
/-! SUPPORT. Branches, flag instructions and NOP (R153, R243 to R251, R260 to R267): a branch completes with PC at its target or
where it is, by one lemma over its condition; the flag instructions and NOP are Implied two-cycle kinds. -/

namespace Sys2Proof.Machine

/-- A branch instruction is the branch class on its condition and offset (R243 to R250). -/
theorem exec_of_branch {i : Instr} {cond : Flags → Bool} {off : Byte} (hcond : kindCondition i.kind = some cond)
    (hoff : instrOffset? i = some off) (s : State) : exec i s = branchClass (cond s.flags) off s := by
  cases i <;> cases hcond <;> cases hoff <;> rfl

/-- A branch completes: PC is its target when its condition holds and as it was when not, and nothing else changes (R153, R251). -/
theorem completes_of_branch {i : Instr} (cond : Flags → Bool) {off : Byte} (hcond : kindCondition i.kind = some cond)
    (hoff : instrOffset? i = some off) (s : State) :
    Completes i s { s.registers with pc := if cond s.flags then branchTarget s.pc off else s.pc } := by
  obtain ⟨u, hu, hnext⟩ := branchClass_next (cond s.flags) off s
  rw [← exec_of_branch hcond hoff] at hnext
  refine completes_of hnext (hu.cycles.of_eq rfl rfl rfl rfl rfl rfl rfl) hu.mem ?_
  rw [← hu.registers]
  rfl

/-- Settles O50: the eight branches are one class over their conditions. -/
theorem branchesComplete : Obligations.BranchesComplete := fun s _ =>
  ⟨completes_of_branch (fun f => !f.n) rfl rfl s, completes_of_branch Flags.n rfl rfl s,
    completes_of_branch (fun f => !f.v) rfl rfl s, completes_of_branch Flags.v rfl rfl s,
    completes_of_branch (fun f => !f.c) rfl rfl s, completes_of_branch Flags.c rfl rfl s,
    completes_of_branch (fun f => !f.z) rfl rfl s, completes_of_branch Flags.z rfl rfl s⟩

/-- Settles O51: the eight are Implied two-cycle instructions, each with its operation on the flags. -/
theorem flagInstructionsComplete : Obligations.FlagInstructionsComplete := fun s =>
  ⟨completes_of_implied State.clcOp rfl s, completes_of_implied State.secOp rfl s, completes_of_implied State.cliOp rfl s,
    completes_of_implied State.seiOp rfl s, completes_of_implied State.clvOp rfl s, completes_of_implied State.cldOp rfl s,
    completes_of_implied State.sedOp rfl s, completes_of_implied State.nopOp rfl s⟩

end Sys2Proof.Machine
end

section
/-! SUPPORT. InterruptCheck (R283 to R287): what it does with each kind of request, and what it never changes; an entry it
triggers delivers no signal and ends at a boundary. -/

namespace Sys2Proof.Machine

theorem interruptCheck_of_nmi {s : State} (h : s.nmiPending = true) :
    s.interruptCheck = { s with nmiPending := false }.accept nmiVector := if_pos h

theorem interruptCheck_of_irq {s : State} (hnmi : s.nmiPending = false) (hirq : s.irqLine = true) (hi : s.flags.i = false) :
    s.interruptCheck = s.accept irqVector := by
  simp [State.interruptCheck, hnmi, hirq, hi]

/-- Of the requests InterruptCheck finds, it takes an NMI first, then an IRQ that I does not mask (R284, R285). -/
theorem request_cases (s : State) :
    s.nmiPending = true ∨ (s.nmiPending = false ∧ s.irqLine = true ∧ s.flags.i = false) ∨ s.quiet := by
  unfold State.quiet
  cases s.nmiPending <;> cases s.irqLine <;> cases s.flags.i <;> simp

/-- InterruptCheck never changes the IRQ line, the registers, the memory or the signals (R284, R285). -/
theorem interruptCheck_frame (s : State) :
    s.interruptCheck.irqLine = s.irqLine ∧ s.interruptCheck.registers = s.registers ∧ s.interruptCheck.mem = s.mem ∧
      s.interruptCheck.signals = s.signals := by
  rcases request_cases s with hnmi | ⟨hnmi, hirq, hi⟩ | hquiet
  · rw [interruptCheck_of_nmi hnmi]
    exact ⟨rfl, rfl, rfl, rfl⟩
  · rw [interruptCheck_of_irq hnmi hirq hi]
    exact ⟨rfl, rfl, rfl, rfl⟩
  · rw [interruptCheck_of_quiet hquiet]
    exact ⟨rfl, rfl, rfl, rfl⟩

/-- Settles O22: one equation for each kind of request, and the frame. -/
theorem interruptCheckPriorityAndMasking : Obligations.InterruptCheckPriorityAndMasking := by
  intro s
  obtain ⟨hline, hregisters, hmem, -⟩ := interruptCheck_frame s
  refine ⟨fun hnmi => ?_, fun hnmi hirq hi => ?_, fun hnmi hmasked => interruptCheck_of_quiet ⟨hnmi, hmasked⟩, hline,
    hregisters, hmem⟩
  · rw [interruptCheck_of_nmi hnmi]
    exact ⟨rfl, rfl, rfl⟩
  · rw [interruptCheck_of_irq hnmi hirq hi]
    exact ⟨rfl, rfl, hnmi⟩

theorem interruptSequence_signals (s : State) : s.interruptSequence.signals = s.signals :=
  (((cycles_internalCycle s).trans (cycles_internalCycle _)).trans (cycles_enterVector _ s.latches.vector)).signals

/-- No interrupt entry delivers a signal (R288, R296). -/
theorem serviceInterrupts_signals (s : State) : s.serviceInterrupts.signals = s.signals := by
  obtain ⟨-, -, -, hcheck⟩ := interruptCheck_frame s
  unfold State.serviceInterrupts
  dsimp only
  split
  · exact (interruptSequence_signals _).trans hcheck
  · exact hcheck

end Sys2Proof.Machine
end

section
/-! SUPPORT. The frame of every documented instruction (R34, R103, R295): whatever it answers, it ends at a boundary with the lines,
the mappings, the parameters and the signals as they were; so no operand, no address and no result makes one trap. -/

namespace Sys2Proof.Machine

/-! ## The classes (R144) -/

/-- An operation on the register file changes nothing that the cycles of an instruction may not. -/
theorem OnRegisters.cycles {g : State → State} (hg : OnRegisters g) (s : State) : Cycles s (g s) := by
  have hgs : g s = s.withRegisters (g s).registers := hg s s
  rw [hgs]
  exact cycles_withRegisters ..

theorem cycles_onMemory (op : ModifyOp) (r : Resolution) : Cycles r.beforeWrite (op.onMemory r) :=
  (r.cycles_writtenBack.trans (cycles_writeOperand ..)).of_eq rfl rfl rfl rfl rfl rfl rfl

theorem cycles_onAccumulator (op : ModifyOp) (s : State) : Cycles s (op.onAccumulator s) :=
  (cycles_internalCycle s).of_eq rfl rfl rfl rfl rfl rfl rfl

/-- The frame of an instruction that ends by loading PC. -/
theorem Cycles.sameSystem_of_pc {s u : State} (h : Cycles s u) (pc : Word) :
    s.SameSystem { u with pc := pc }.endInstruction :=
  Cycles.sameSystem (h.of_eq rfl rfl rfl rfl rfl rfl rfl)

theorem Completes.sameSystem {i : Instr} {s t : State} {r : Registers} (hc : Completes i s r) (h : exec i s = .next t) :
    s.SameSystem t := by
  obtain ⟨u, hu, -, hsame, -⟩ := hc
  cases hu.symm.trans h
  exact hsame

section
variable {k : Kind} {o : Operand} {s t : State}

theorem readClass_sameSystem {op : Byte → State → State} (hk : kindAccess k = some (.read op))
    (h : readClass k o op s = .next t) : s.SameSystem t := by
  obtain ⟨m, u, hu, rfl⟩ := readClass_cases h
  exact (hu.cycles.trans ((readOp_onRegisters hk m).cycles u)).sameSystem

theorem writeClass_sameSystem {v : Byte} (h : writeClass k o v s = .next t) : s.SameSystem t := by
  obtain ⟨u, ea, hu, rfl⟩ := writeClass_cases h
  exact (hu.cycles.trans (cycles_writeOperand ..)).sameSystem

theorem modifyClass_sameSystem {op : ModifyOp} (h : modifyClass k o op s = .next t) : s.SameSystem t := by
  obtain ⟨-, -, rfl⟩ | ⟨r, hr, rfl⟩ := modifyClass_cases h
  · exact (cycles_onAccumulator op s).sameSystem
  · exact (hr.cycles.trans (cycles_onMemory op r)).sameSystem

end

theorem execJmp_sameSystem {o : Operand} {s t : State} (h : execJmp o s = .next t) : s.SameSystem t := by
  obtain ⟨u, pc, hu, rfl⟩ := execJmp_cases h
  exact hu.cycles.sameSystem_of_pc pc

/-! ## Every documented instruction -/

/-- Every instruction but `ill` ends at a boundary with the lines, the mappings, the parameters and the signals as they
were (R34, R103, R295). -/
theorem exec_sameSystem {i : Instr} {s t : State} (hill : i.kind ≠ .ill) (h : exec i s = .next t) : s.SameSystem t := by
  cases i with
  | lda o | ldx o | ldy o | ora o | and o | eor o | adc o | sbc o | cmp o | cpx o | cpy o | bit o =>
    exact readClass_sameSystem rfl h
  | sta o | stx o | sty o => exact writeClass_sameSystem h
  | asl o | lsr o | rol o | ror o | inc o | dec o => exact modifyClass_sameSystem h
  | tax | tay | txa | tya | tsx | txs | inx | iny | dex | dey | clc | sec | cli | sei | clv | cld | sed | nop =>
    exact (completes_of_implied _ rfl s).sameSystem h
  | jmp o => exact execJmp_sameSystem h
  | bpl off | bmi off | bvc off | bvs off | bcc off | bcs off | bne off | beq off =>
    exact (completes_of_branch _ rfl rfl s).sameSystem h
  | pha | php =>
    cases h
    exact ((cycles_internalCycle s).trans (cycles_push ..)).sameSystem
  | pla =>
    obtain ⟨m, -, hpla, -, -⟩ := pullsComplete s
    exact hpla.sameSystem h
  | plp =>
    obtain ⟨m, -, -, hplp, -⟩ := pullsComplete s
    exact hplp.sameSystem h
  | jsr target =>
    cases h
    exact ((cycles_jsrPush s).trans (cycles_readOperand ..)).sameSystem_of_pc _
  | rts =>
    obtain ⟨lo, hi, u, hu, -, hsame, -⟩ := rtsCompletes s
    cases hu.symm.trans h
    exact hsame
  | rti =>
    obtain ⟨m, lo, hi, u, hu, hsame, -⟩ := rtiCompletes s
    cases hu.symm.trans h
    exact hsame
  | brk =>
    cases h
    have hpadding : Cycles s s.raiseBrkFlag.internalCycle.advancePc :=
      (cycles_internalCycle s).of_eq rfl rfl rfl rfl rfl rfl rfl
    exact (hpadding.trans (cycles_enterVector _ irqVector)).sameSystem
  | ill opcode => exact absurd rfl hill

/-- A state that an instruction ended in has nothing left to end (R103). -/
theorem State.SameSystem.endInstruction_eq {s t : State} (h : s.SameSystem t) : t.endInstruction = t := by
  rw [State.endInstruction, ← h.fsm, ← h.latches, ← h.brkFlag]

/-- Settles O11: a documented instruction completes by its cycle count, its frame says that it has not trapped, and neither the
fetch before it nor the interrupt entry after it delivers a signal. -/
theorem documentedInstructionsNeverTrap : Obligations.DocumentedInstructionsNeverTrap := by
  intro s hf hdefined
  have hill : (optab s.opcodeByte).kind ≠ .ill := by
    rw [Ne, optab_ill_iff, hdefined]
    exact Bool.false_ne_true
  have hkind : s.nextInstr.kind ≠ .ill := by rwa [State.nextInstr, decodeBytes_kind]
  obtain ⟨tr, dg, hfetch, -⟩ := fetchAdvancesPcPastTheInstruction s s.nextInstr (decodeBytes_wellFormed ..)
  have hfetchSignals : (s.fetchFor s.nextInstr).signals = s.signals := by rw [hfetch]
  obtain ⟨t, hexec, -⟩ := cycleCountContract s hf hill
  have hsame := exec_sameSystem hkind hexec
  have hnotrap : t.fsm ≠ .trapped := by
    rw [hsame.fsm]
    decide
  obtain ⟨w, hends⟩ := serviceInterrupts_ends t
  rw [hsame.endInstruction_eq] at hends
  refine ⟨t.serviceInterrupts, ?_, congrArg State.fsm hends, ?_⟩
  · rw [step_fetch hf, hexec, afterInstruction, if_neg hnotrap]
  · rw [serviceInterrupts_signals, hsame.signals, hfetchSignals]

end Sys2Proof.Machine
end
